-- ==== Sys2Proof/Word.lean ====
section
/-! DEFINITION. Word: the bit-vector types of the core and the index types of its files.
Every quantity of the machine is unsigned (00_scope.md R8). -/

namespace Sys2Proof

/-- A register, a timer value or a byte of memory: `XLEN` = 8 bits (00_scope.md R6). -/
abbrev Byte := BitVec 8

/-- An instruction word, `pc`, `I` or a stack entry: 16 bits (00_scope.md R6). -/
abbrev Word := BitVec 16

/-- The 12-bit `addr` field of an instruction word (30_encoding.md R54). -/
abbrev Addr12 := BitVec 12

/-- The number of one of the 16 general registers: every value of a 4-bit field names a register
(10_state.md R10). -/
abbrev RegIdx := Fin 16

/-- The number of one of the 16 keys (60_exceptions.md R143). -/
abbrev KeyIdx := Fin 16

/-- `VF`, the flag register: register 15 (10_state.md R11). -/
abbrev vf : RegIdx := 15

end Sys2Proof
end

