-- ==== Sys2Proof/Config.lean ====
section
/-! DEFINITION. Config: what is fixed for the machine (the parameters of 00_scope.md R6) and the
values the spec leaves free, as constants without a body. -/

namespace Sys2Proof.Config

/-- `MEM_SIZE`: bytes of memory (00_scope.md R6; decision D1). -/
def memSize : Nat := 4096

/-- `LOAD_BASE`: the first program byte and the reset value of `pc` (00_scope.md R6; decision D2). -/
def loadBase : Nat := 0x200

/-- `GLYPH_BYTES`: the size of the glyph region, which starts at `GLYPH_BASE` = 0 (00_scope.md R6). -/
def glyphBytes : Nat := 80

/-- The two values the parameter `TIMER_ZERO_DEC` may have (60_exceptions.md R138). -/
inductive TimerZeroDec where
  /-- An active timer whose value is 0 goes on from 255. -/
  | wrap
  /-- An active timer whose value is 0 stays at 0. -/
  | saturate
deriving DecidableEq, Repr, Inhabited

/-- `TIMER_ZERO_DEC`, left OPEN by the spec (60_exceptions.md R138; decision D16): a free choice of
the implementation, log entry 3. -/
opaque timerZeroDec : TimerZeroDec

end Sys2Proof.Config

namespace Sys2Proof

/-- The host inputs of one cycle (10_state.md R27). -/
structure HostInput where
  /-- `in.keys`: bit `k` is 1 when key `k` is pressed. -/
  keys : BitVec 16
  /-- `in.key_event`: none, or the key whose press is available. -/
  keyEvent : Option KeyIdx
  /-- `in.rand`: the random byte of the cycle. -/
  rand : Byte
deriving DecidableEq, Repr, Inhabited

/-- What the host supplies in the cycle numbered by the argument when `State.inputs` lists nothing
for it: a free value, under no law (10_state.md R27; decisions D14, D15), log entry 1. -/
opaque Config.freeInput : Nat → HostInput

end Sys2Proof
end

