-- ==== Sys2Proof/Syntax.lean ====
section
/-! DEFINITION. Syntax: one constructor for each of the 34 rows of spec/opcode_table.json
(30_encoding.md R57 to R62). The set is closed (00_scope.md R2). -/

namespace Sys2Proof

/-- The instructions. `x` and `y` are register numbers, `kk` a byte, `addr` a 12-bit address, `n` a
number of sprite rows 0 to 15 (30_encoding.md R54, R56). -/
inductive Instr where
  /-- 00E0 `CLS`, R111. -/
  | cls
  /-- 00EE `RET`, R81. -/
  | ret
  /-- 1nnn `JP addr`, R82. -/
  | jp (addr : Addr12)
  /-- 2nnn `CALL addr`, R83. -/
  | call (addr : Addr12)
  /-- 3xkk `SE Vx, kk`, R84. -/
  | seImm (x : RegIdx) (kk : Byte)
  /-- 4xkk `SNE Vx, kk`, R85. -/
  | sneImm (x : RegIdx) (kk : Byte)
  /-- 5xy0 `SE Vx, Vy`, R86. -/
  | seReg (x y : RegIdx)
  /-- 6xkk `LD Vx, kk`, R91. -/
  | ldImm (x : RegIdx) (kk : Byte)
  /-- 7xkk `ADD Vx, kk`, R92. -/
  | addImm (x : RegIdx) (kk : Byte)
  /-- 8xy0 `LD Vx, Vy`, R93. -/
  | ldReg (x y : RegIdx)
  /-- 8xy1 `OR Vx, Vy`, R94. -/
  | orReg (x y : RegIdx)
  /-- 8xy2 `AND Vx, Vy`, R95. -/
  | andReg (x y : RegIdx)
  /-- 8xy3 `XOR Vx, Vy`, R96. -/
  | xorReg (x y : RegIdx)
  /-- 8xy4 `ADD Vx, Vy`, R97. -/
  | addReg (x y : RegIdx)
  /-- 8xy5 `SUB Vx, Vy`, R98. -/
  | subReg (x y : RegIdx)
  /-- 8xy6 `SHR Vx`, R99. The word has a `y` field, which the instruction ignores (R64). -/
  | shr (x y : RegIdx)
  /-- 8xy7 `SUBN Vx, Vy`, R100. -/
  | subnReg (x y : RegIdx)
  /-- 8xyE `SHL Vx`, R101. The word has a `y` field, which the instruction ignores (R64). -/
  | shl (x y : RegIdx)
  /-- 9xy0 `SNE Vx, Vy`, R87. -/
  | sneReg (x y : RegIdx)
  /-- Annn `LD I, addr`, R103. -/
  | ldI (addr : Addr12)
  /-- Bnnn `JP V0, addr`, R88. -/
  | jpV0 (addr : Addr12)
  /-- Cxkk `RND Vx, kk`, R102. -/
  | rnd (x : RegIdx) (kk : Byte)
  /-- Dxyn `DRW Vx, Vy, n`, R112. -/
  | drw (x y : RegIdx) (n : Fin 16)
  /-- Ex9E `SKP Vx`, R117. -/
  | skp (x : RegIdx)
  /-- ExA1 `SKNP Vx`, R118. -/
  | sknp (x : RegIdx)
  /-- Fx07 `LD Vx, DT`, R114. -/
  | ldVxDt (x : RegIdx)
  /-- Fx0A `LD Vx, K`, R119. -/
  | ldVxK (x : RegIdx)
  /-- Fx15 `LD DT, Vx`, R115. -/
  | ldDtVx (x : RegIdx)
  /-- Fx18 `LD ST, Vx`, R116. -/
  | ldStVx (x : RegIdx)
  /-- Fx1E `LD I, Vx`, R104. -/
  | ldIVx (x : RegIdx)
  /-- Fx29 `LD F, Vx`, R105. -/
  | ldFVx (x : RegIdx)
  /-- Fx33 `LD B, Vx`, R106. -/
  | ldBVx (x : RegIdx)
  /-- Fx55 `LD [I], Vx`, R107. -/
  | ldMemVx (x : RegIdx)
  /-- Fx65 `LD Vx, [I]`, R108. -/
  | ldVxMem (x : RegIdx)
deriving DecidableEq, Repr

end Sys2Proof
end

