-- ==== Sys2Proof/WellFormed.lean ====
section
/-! DEFINITION. WellFormed: which instructions and which program images are legal. -/

namespace Sys2Proof

/-- Every term of `Instr` is a well-formed instruction: a register field holds any number 0 to 15 and
each names a register (10_state.md R10), every byte, address and row count is legal (30_encoding.md
R56), and the ignored `y` of 8xy6 and 8xyE may be anything (R64). The types of the fields leave nothing
for a check to refuse; the words that are no instruction are refused by the decoder (R63). -/
def Instr.wellFormed : Instr → Bool
  | .cls | .ret => true
  | .jp _ | .call _ | .ldI _ | .jpV0 _ => true
  | .seImm _ _ | .sneImm _ _ | .ldImm _ _ | .addImm _ _ | .rnd _ _ => true
  | .seReg _ _ | .sneReg _ _ => true
  | .ldReg _ _ | .orReg _ _ | .andReg _ _ | .xorReg _ _ => true
  | .addReg _ _ | .subReg _ _ | .shr _ _ | .subnReg _ _ | .shl _ _ => true
  | .drw _ _ _ => true
  | .skp _ | .sknp _ => true
  | .ldVxDt _ | .ldVxK _ | .ldDtVx _ | .ldStVx _ => true
  | .ldIVx _ | .ldFVx _ | .ldBVx _ | .ldMemVx _ | .ldVxMem _ => true

/-- A program image the loader may place: at most `MEM_SIZE − LOAD_BASE` = 3584 bytes (10_state.md R31,
70_reset_and_hazards.md R149). -/
def imageWellFormed (image : List Byte) : Bool :=
  decide (image.length ≤ Config.memSize - Config.loadBase)

end Sys2Proof
end

