-- ==== Sys2Proof/Decode.lean ====
section
/-! DEFINITION. Decode: from instruction words (and byte sequences) to instructions, total, rejecting
by name (30_encoding.md R53 to R65); then the encoder, from the same tables; then the host's
`decodeTableWord`. -/

namespace Sys2Proof

/-! ## Fields of an instruction word (30_encoding.md R54) -/

/-- `op` = `w[15:12]`, as a number 0 to 15. -/
def opField (w : Word) : Nat := (w.extractLsb' 12 4).toNat

/-- `x` = `w[11:8]`. -/
def xField (w : Word) : RegIdx := (w.extractLsb' 8 4).toFin

/-- `y` = `w[7:4]`. -/
def yField (w : Word) : RegIdx := (w.extractLsb' 4 4).toFin

/-- `n` = `w[3:0]`. -/
def nField (w : Word) : Fin 16 := (w.extractLsb' 0 4).toFin

/-- `kk` = `w[7:0]`. -/
def kkField (w : Word) : Byte := w.extractLsb' 0 8

/-- `addr` = `w[11:0]`. -/
def addrField (w : Word) : Addr12 := w.extractLsb' 0 12

/-! ## Decoding -/

/-- Why a byte sequence is no instruction. -/
inductive DecodeError where
  /-- The word matches none of the 34 patterns (30_encoding.md R63): the core raises
  `UnsupportedOpcode` with the word. -/
  | unsupportedOpcode (w : Word)
  /-- Fewer than two bytes: an instruction is one 16-bit word (30_encoding.md R53). The core never
  meets it, since its fetch reads two bytes or raises `MemoryOutOfBounds`. -/
  | truncated
deriving DecidableEq, Repr

/-- Group 0: matched on the whole word (30_encoding.md R58). -/
def decodeGroup0 (w : Word) : Except DecodeError Instr :=
  if w = 0x00E0#16 then .ok .cls
  else if w = 0x00EE#16 then .ok .ret
  else .error (.unsupportedOpcode w)

/-- Group 5: `n` must be 0 (30_encoding.md R59). -/
def decodeGroup5 (w : Word) : Except DecodeError Instr :=
  if nField w = 0 then .ok (.seReg (xField w) (yField w)) else .error (.unsupportedOpcode w)

/-- Group 9: `n` must be 0 (30_encoding.md R59). -/
def decodeGroup9 (w : Word) : Except DecodeError Instr :=
  if nField w = 0 then .ok (.sneReg (xField w) (yField w)) else .error (.unsupportedOpcode w)

/-- Group 8: matched on `n` (30_encoding.md R60). -/
def decodeGroup8 (w : Word) : Except DecodeError Instr :=
  match (nField w).val with
  | 0x0 => .ok (.ldReg (xField w) (yField w))
  | 0x1 => .ok (.orReg (xField w) (yField w))
  | 0x2 => .ok (.andReg (xField w) (yField w))
  | 0x3 => .ok (.xorReg (xField w) (yField w))
  | 0x4 => .ok (.addReg (xField w) (yField w))
  | 0x5 => .ok (.subReg (xField w) (yField w))
  | 0x6 => .ok (.shr (xField w) (yField w))
  | 0x7 => .ok (.subnReg (xField w) (yField w))
  | 0xE => .ok (.shl (xField w) (yField w))
  | _ => .error (.unsupportedOpcode w)

/-- Group E: matched on `kk` (30_encoding.md R61). -/
def decodeGroupE (w : Word) : Except DecodeError Instr :=
  match (kkField w).toNat with
  | 0x9E => .ok (.skp (xField w))
  | 0xA1 => .ok (.sknp (xField w))
  | _ => .error (.unsupportedOpcode w)

/-- Group F: matched on `kk` (30_encoding.md R62). -/
def decodeGroupF (w : Word) : Except DecodeError Instr :=
  match (kkField w).toNat with
  | 0x07 => .ok (.ldVxDt (xField w))
  | 0x0A => .ok (.ldVxK (xField w))
  | 0x15 => .ok (.ldDtVx (xField w))
  | 0x18 => .ok (.ldStVx (xField w))
  | 0x1E => .ok (.ldIVx (xField w))
  | 0x29 => .ok (.ldFVx (xField w))
  | 0x33 => .ok (.ldBVx (xField w))
  | 0x55 => .ok (.ldMemVx (xField w))
  | 0x65 => .ok (.ldVxMem (xField w))
  | _ => .error (.unsupportedOpcode w)

/-- The decoder: a function of the word alone, by its top nibble (30_encoding.md R57). The last arm is
group F, since `opField` is a number 0 to 15. -/
def decodeWord (w : Word) : Except DecodeError Instr :=
  match opField w with
  | 0x0 => decodeGroup0 w
  | 0x1 => .ok (.jp (addrField w))
  | 0x2 => .ok (.call (addrField w))
  | 0x3 => .ok (.seImm (xField w) (kkField w))
  | 0x4 => .ok (.sneImm (xField w) (kkField w))
  | 0x5 => decodeGroup5 w
  | 0x6 => .ok (.ldImm (xField w) (kkField w))
  | 0x7 => .ok (.addImm (xField w) (kkField w))
  | 0x8 => decodeGroup8 w
  | 0x9 => decodeGroup9 w
  | 0xA => .ok (.ldI (addrField w))
  | 0xB => .ok (.jpV0 (addrField w))
  | 0xC => .ok (.rnd (xField w) (kkField w))
  | 0xD => .ok (.drw (xField w) (yField w) (nField w))
  | 0xE => decodeGroupE w
  | _ => decodeGroupF w

/-- The word held by two consecutive bytes, high byte first (20_memory.md R44). -/
def wordOfBytes (hi lo : Byte) : Word := hi ++ lo

/-- The byte at the lower address of a stored word, its high byte (20_memory.md R44). -/
def highByte (w : Word) : Byte := w.extractLsb' 8 8

/-- The byte at the higher address of a stored word, its low byte (20_memory.md R44). -/
def lowByte (w : Word) : Byte := w.extractLsb' 0 8

/-- Decoding of a byte sequence: the instruction its first two bytes hold, and the bytes after it. -/
def decode : List Byte → Except DecodeError (Instr × List Byte)
  | hi :: lo :: rest =>
    match decodeWord (wordOfBytes hi lo) with
    | .ok i => .ok (i, rest)
    | .error e => .error e
  | _ => .error .truncated

/-! ## Encoding (30_encoding.md R55) -/

/-- Format A: `op`, 12-bit address. -/
def formatA (op : BitVec 4) (addr : Addr12) : Word := op ++ addr

/-- A register number or row count as the nibble of a word. -/
def nibbleOf (k : Fin 16) : BitVec 4 := BitVec.ofNat 4 k.val

/-- Format XK: `op`, register, byte. Format X is the same layout with the sub-opcode as the byte. -/
def formatXK (op : BitVec 4) (x : RegIdx) (kk : Byte) : Word := (op ++ nibbleOf x : BitVec 8) ++ kk

/-- Format XYN: `op`, two registers, nibble. Format XY is the same layout with the sub-opcode as the
nibble. -/
def formatXYN (op : BitVec 4) (x y n : Fin 16) : Word :=
  (op ++ nibbleOf x : BitVec 8) ++ (nibbleOf y ++ nibbleOf n : BitVec 8)

/-- The word of an instruction, from the patterns of 30_encoding.md R57 to R62. -/
def encodeWord : Instr → Word
  | .cls => 0x00E0#16
  | .ret => 0x00EE#16
  | .jp addr => formatA 0x1#4 addr
  | .call addr => formatA 0x2#4 addr
  | .seImm x kk => formatXK 0x3#4 x kk
  | .sneImm x kk => formatXK 0x4#4 x kk
  | .seReg x y => formatXYN 0x5#4 x y 0x0
  | .ldImm x kk => formatXK 0x6#4 x kk
  | .addImm x kk => formatXK 0x7#4 x kk
  | .ldReg x y => formatXYN 0x8#4 x y 0x0
  | .orReg x y => formatXYN 0x8#4 x y 0x1
  | .andReg x y => formatXYN 0x8#4 x y 0x2
  | .xorReg x y => formatXYN 0x8#4 x y 0x3
  | .addReg x y => formatXYN 0x8#4 x y 0x4
  | .subReg x y => formatXYN 0x8#4 x y 0x5
  | .shr x y => formatXYN 0x8#4 x y 0x6
  | .subnReg x y => formatXYN 0x8#4 x y 0x7
  | .shl x y => formatXYN 0x8#4 x y 0xE
  | .sneReg x y => formatXYN 0x9#4 x y 0x0
  | .ldI addr => formatA 0xA#4 addr
  | .jpV0 addr => formatA 0xB#4 addr
  | .rnd x kk => formatXK 0xC#4 x kk
  | .drw x y n => formatXYN 0xD#4 x y n
  | .skp x => formatXK 0xE#4 x 0x9E#8
  | .sknp x => formatXK 0xE#4 x 0xA1#8
  | .ldVxDt x => formatXK 0xF#4 x 0x07#8
  | .ldVxK x => formatXK 0xF#4 x 0x0A#8
  | .ldDtVx x => formatXK 0xF#4 x 0x15#8
  | .ldStVx x => formatXK 0xF#4 x 0x18#8
  | .ldIVx x => formatXK 0xF#4 x 0x1E#8
  | .ldFVx x => formatXK 0xF#4 x 0x29#8
  | .ldBVx x => formatXK 0xF#4 x 0x33#8
  | .ldMemVx x => formatXK 0xF#4 x 0x55#8
  | .ldVxMem x => formatXK 0xF#4 x 0x65#8

/-- The words of an instruction: every instruction is one word (30_encoding.md R53). -/
def encode (i : Instr) : List Word := [encodeWord i]

/-- The bytes of an instruction as memory holds them, lowest address first (20_memory.md R44). -/
def encodeBytes (i : Instr) : List Byte := [highByte (encodeWord i), lowByte (encodeWord i)]

/-! ## The opcode table as data -/

/-- A row of spec/opcode_table.json: the words whose bits under `mask` are `value`. -/
structure OpcodeRow where
  /-- The row's "match". -/
  value : Word
  /-- The row's "mask". -/
  mask : Word
deriving DecidableEq, Repr

/-- Whether a word is one of a row's. -/
def OpcodeRow.covers (r : OpcodeRow) (w : Word) : Bool := decide (w &&& r.mask = r.value)

/-- The 34 rows of spec/opcode_table.json, in its order. -/
def opcodeTable : List OpcodeRow :=
  [⟨0x00E0#16, 0xFFFF#16⟩, ⟨0x00EE#16, 0xFFFF#16⟩, ⟨0x1000#16, 0xF000#16⟩, ⟨0x2000#16, 0xF000#16⟩, ⟨0x3000#16, 0xF000#16⟩, ⟨0x4000#16, 0xF000#16⟩] ++
  [⟨0x5000#16, 0xF00F#16⟩, ⟨0x6000#16, 0xF000#16⟩, ⟨0x7000#16, 0xF000#16⟩, ⟨0x8000#16, 0xF00F#16⟩, ⟨0x8001#16, 0xF00F#16⟩, ⟨0x8002#16, 0xF00F#16⟩] ++
  [⟨0x8003#16, 0xF00F#16⟩, ⟨0x8004#16, 0xF00F#16⟩, ⟨0x8005#16, 0xF00F#16⟩, ⟨0x8006#16, 0xF00F#16⟩, ⟨0x8007#16, 0xF00F#16⟩, ⟨0x800E#16, 0xF00F#16⟩] ++
  [⟨0x9000#16, 0xF00F#16⟩, ⟨0xA000#16, 0xF000#16⟩, ⟨0xB000#16, 0xF000#16⟩, ⟨0xC000#16, 0xF000#16⟩, ⟨0xD000#16, 0xF000#16⟩, ⟨0xE09E#16, 0xF0FF#16⟩] ++
  [⟨0xE0A1#16, 0xF0FF#16⟩, ⟨0xF007#16, 0xF0FF#16⟩, ⟨0xF00A#16, 0xF0FF#16⟩, ⟨0xF015#16, 0xF0FF#16⟩, ⟨0xF018#16, 0xF0FF#16⟩, ⟨0xF01E#16, 0xF0FF#16⟩] ++
  [⟨0xF029#16, 0xF0FF#16⟩, ⟨0xF033#16, 0xF0FF#16⟩, ⟨0xF055#16, 0xF0FF#16⟩, ⟨0xF065#16, 0xF0FF#16⟩]

/-! ## The host's numbering -/

/-- The 16 bits of an instruction of which the table gives `nbits`, those above being 0. -/
def tableWord (nbits w : Nat) : Word := BitVec.ofNat 16 (w % 2 ^ nbits)

/-- What the decoder reads from an instruction whose bits are `w`, numbered as spec/opcode_table.json
numbers them: the word is laid out as the hardware stores it and given to `decode`. -/
def decodeTableWord (nbits w : Nat) : Option Instr :=
  match decode [highByte (tableWord nbits w), lowByte (tableWord nbits w)] with
  | .ok (i, _) => some i
  | .error _ => none

end Sys2Proof
end

