-- ==== Sys2Proof/Machine/Flags.lean ====
section
/-! DEFINITION. Flags: every value that an instruction writes to `VF` as a flag (10_state.md R11). The
flag register is written by `State.setFlag` of Ops.lean. -/

namespace Sys2Proof.Machine

/-- A condition as the flag byte: 1 or 0. -/
def flagOf (b : Bool) : Byte := if b then 1#8 else 0#8

/-- 8xy4: the sum of two registers exceeds 255 (42_load_alu.md R97). -/
def carryFlag (a b : Byte) : Byte := flagOf (decide (a.toNat + b.toNat > 255))

/-- 8xy5 and 8xy7: the first operand is strictly greater than the second, both unsigned (42_load_alu.md
R98, R100). -/
def greaterFlag (a b : Byte) : Byte := flagOf (decide (a.toNat > b.toNat))

/-- 8xy6: bit 0, which the right shift moves out (42_load_alu.md R99). -/
def lowBitFlag (a : Byte) : Byte := a &&& 1#8

/-- 8xyE: bit 7, which the left shift moves out (42_load_alu.md R101). -/
def highBitFlag (a : Byte) : Byte := a >>> 7

/-- Dxyn: `VF | (color & pixel)` (44_display.md R112). -/
def collisionFlag (old : Byte) (color lit : Bool) : Byte := old ||| flagOf (color && lit)

end Sys2Proof.Machine
end

