-- ==== Sys2Proof/Machine/Memory.lean ====
section
/-! DEFINITION. Memory: the 4096 bytes of 20_memory.md as a list of (address, byte) pairs in one
canonical form. -/

namespace Sys2Proof.Machine

/-- The 80 bytes `GLYPHS`, five for each hexadecimal digit (20_memory.md R37). PRESUMED: the spec
recommends these from general knowledge (decision D3), log entry 4. -/
def glyphs : List Byte :=
  [0xF0#8, 0x90#8, 0x90#8, 0x90#8, 0xF0#8] ++ [0x20#8, 0x60#8, 0x20#8, 0x20#8, 0x70#8] ++
  [0xF0#8, 0x10#8, 0xF0#8, 0x80#8, 0xF0#8] ++ [0xF0#8, 0x10#8, 0xF0#8, 0x10#8, 0xF0#8] ++
  [0x90#8, 0x90#8, 0xF0#8, 0x10#8, 0x10#8] ++ [0xF0#8, 0x80#8, 0xF0#8, 0x10#8, 0xF0#8] ++
  [0xF0#8, 0x80#8, 0xF0#8, 0x90#8, 0xF0#8] ++ [0xF0#8, 0x10#8, 0x20#8, 0x40#8, 0x40#8] ++
  [0xF0#8, 0x90#8, 0xF0#8, 0x90#8, 0xF0#8] ++ [0xF0#8, 0x90#8, 0xF0#8, 0x10#8, 0xF0#8] ++
  [0xF0#8, 0x90#8, 0xF0#8, 0x90#8, 0x90#8] ++ [0xE0#8, 0x90#8, 0xE0#8, 0x90#8, 0xE0#8] ++
  [0xF0#8, 0x80#8, 0x80#8, 0x80#8, 0xF0#8] ++ [0xE0#8, 0x90#8, 0x90#8, 0x90#8, 0xE0#8] ++
  [0xF0#8, 0x80#8, 0xF0#8, 0x80#8, 0xF0#8] ++ [0xF0#8, 0x80#8, 0xF0#8, 0x80#8, 0x80#8]

/-- What an address that the memory does not list reads as: its reset contents with no image loaded,
the glyphs at 0x000 to 0x04F and zero elsewhere (10_state.md R31). -/
def unlistedByte (a : Nat) : Byte :=
  if a < Config.glyphBytes then glyphs.getD a 0#8 else 0#8

/-- The memory: the bytes that differ from `unlistedByte`, by address. -/
abbrev Memory := List Host.Cell

/-- The byte at an address (20_memory.md R40). -/
def Memory.read : Memory → Nat → Byte
  | [], a => unlistedByte a
  | (b, u) :: m, a => if a = b then u else Memory.read m a

/-- The cells that hold byte `v` at address `a`: none when an unlisted `a` reads as `v`. -/
def Memory.cell (a : Nat) (v : Byte) : Memory :=
  if v = unlistedByte a then [] else [(a, v)]

/-- The memory with byte `v` at address `a`, in canonical form again (20_memory.md R40). -/
def Memory.write : Memory → Nat → Byte → Memory
  | [], a, v => Memory.cell a v
  | (b, u) :: m, a, v =>
    if a < b then Memory.cell a v ++ (b, u) :: m
    else if a = b then Memory.cell a v ++ m
    else (b, u) :: Memory.write m a v

/-- Every address of the memory is at least `lo`, addresses rise strictly and exist, and no cell says
what an unlisted address says anyway. -/
def Memory.wfFrom : Nat → Memory → Bool
  | _, [] => true
  | lo, (a, v) :: m =>
    decide (lo ≤ a) && decide (a < Config.memSize) && decide (v ≠ unlistedByte a) && Memory.wfFrom (a + 1) m

/-- The canonical form of a memory: equal memories are equal lists. -/
def Memory.wf (m : Memory) : Bool := Memory.wfFrom 0 m

/-- The memory with the bytes of a list placed from address `a` up (10_state.md R31). -/
def Memory.load : Memory → Nat → List Byte → Memory
  | m, _, [] => m
  | m, a, v :: vs => Memory.load (m.write a v) (a + 1) vs

end Sys2Proof.Machine
end

