-- ==== Sys2Proof/Machine/State.lean ====
section
/-! DEFINITION. State: every piece of state the spec gives the core (10_state.md R9), the model's three
fields for its ports, the reset state, and the reasons a step may stop. -/

namespace Sys2Proof.Machine

/-- A countdown timer (60_exceptions.md R136). -/
structure Timer where
  /-- The 8-bit countdown value. -/
  value : Byte
  /-- Whether the timer is counting down. -/
  active : Bool
deriving DecidableEq, Repr

/-- The four faults of the core (60_exceptions.md R121). -/
inductive FaultKind where
  /-- R122: the fetched word is no instruction. -/
  | unsupportedOpcode
  /-- R123: a call with sixteen calls outstanding. -/
  | stackOverflow
  /-- R124: a return with no call outstanding. -/
  | stackUnderflow
  /-- R125: a fetch or data access at `MEM_SIZE` or beyond. -/
  | memoryOutOfBounds
deriving DecidableEq, Repr

/-- The fault record (60_exceptions.md R126). -/
structure FaultRecord where
  /-- Which fault. -/
  kind : FaultKind
  /-- The address of the faulting instruction, or the `pc` that could not be fetched from. -/
  pc : Word
  /-- The offending word or address, 0 for the stack faults. -/
  info : Word
deriving DecidableEq, Repr

/-- The outputs of one cycle (40_cycle.md R68). -/
structure HostOutput where
  /-- `out.beep`: the sound timer was activated in the cycle. -/
  beep : Bool
  /-- `out.frame_notify`: the renderer was notified in the cycle. -/
  frameNotify : Bool
  /-- `out.fault`: the fault the cycle raised. -/
  fault : Option FaultRecord
deriving DecidableEq, Repr

/-- The outputs of a cycle before any rule sets them: "one bit each, 0 unless a rule sets them"
(40_cycle.md R68). -/
def HostOutput.quiet : HostOutput := { beep := false, frameNotify := false, fault := none }

/-- The state of the core (10_state.md R9), in the order of that rule's table, and after it the model's
own fields. -/
structure State where
  /-- The general registers `V[0]` … `V[15]` (R10). -/
  v : Vector Byte 16
  /-- The address register `I` (R13). -/
  i : Word
  /-- The program counter (R15). -/
  pc : Word
  /-- The return-address stack (R17). -/
  stack : Vector Word 16
  /-- The stack pointer: how many slots are used, 0 to 16 (R18). -/
  sp : Fin 17
  /-- The delay timer (R19). -/
  dt : Timer
  /-- The sound timer (R20). -/
  st : Timer
  /-- The framebuffer, `pixels[py][px]` (R21). -/
  pixels : Vector (Vector Bool 64) 32
  /-- Whether the framebuffer changed since the renderer was notified (R22). -/
  dirty : Bool
  /-- The memory (R23). -/
  mem : Memory
  /-- The register a suspended Fx0A will write (R24). -/
  wait : Option RegIdx
  /-- The latched fault record (R25). -/
  fault : Option FaultRecord
  /-- The model's own: the host inputs of the coming cycles, that of the next one first (R27). Where
  the list ends the inputs are free (`Config.freeInput`). Log entry 1. -/
  inputs : List HostInput
  /-- The model's own: how many cycles have run, the argument of `Config.freeInput`. Log entry 1. -/
  ticks : Nat
  /-- The model's own: the outputs of the cycle that ended last (R28). Log entry 2. -/
  out : HostOutput
deriving DecidableEq, Repr

/-- The reasons a step may end in the host's outcome `fault`. There is none, and the type is empty:
each of the four faults of the core is an entry the spec describes (60_exceptions.md R129), which the
model takes as a next state with `State.fault` latched, and a cycle is total (40_cycle.md R68). Safe:
nothing raises it. Log entry 8. -/
inductive Fault
deriving DecidableEq, Repr

/-- The reasons a step may be refused. -/
inductive Refusal where
  /-- Raised by an arm of `exec` whose instruction has no meaning yet, with the instruction's mnemonic.
  Safe: the model stops where the hardware goes on. No arm raises it: all 34 have their meaning. -/
  | notModelled (mnemonic : String)
deriving DecidableEq, Repr

/-- An idle timer: value 0, inactive (10_state.md R30). -/
def Timer.idle : Timer := { value := 0#8, active := false }

/-- The state after reset with no image loaded (10_state.md R30, R31). The zeros are the spec's decision
D4, log entry 5; a program comes in by `State.hostReset`, log entry 6. -/
def State.reset : State where
  v := Vector.replicate 16 0#8
  i := 0#16
  pc := BitVec.ofNat 16 Config.loadBase
  stack := Vector.replicate 16 0#16
  sp := 0
  dt := Timer.idle
  st := Timer.idle
  pixels := Vector.replicate 32 (Vector.replicate 64 false)
  dirty := false
  mem := []
  wait := none
  fault := none
  inputs := []
  ticks := 0
  out := HostOutput.quiet

end Sys2Proof.Machine
end

