-- ==== Sys2Proof/Machine/Ops.lean ====
section
/-! DEFINITION. Ops: the named operations over the registers, `pc`, the stack, memory, the framebuffer,
the timers and the latches that the meanings and the cycle are written with, and taking a fault. -/

namespace Sys2Proof.Machine

/-! ## General registers (10_state.md R10, R11) -/

/-- `V[r]`. -/
def State.getV (s : State) (r : RegIdx) : Byte := s.v[r]

/-- `V[r] <- b`. -/
def State.setV (s : State) (r : RegIdx) (b : Byte) : State := { s with v := s.v.set r b }

/-- `V[0xF] <- b`. -/
def State.setFlag (s : State) (b : Byte) : State := s.setV vf b

/-- `I <- w` (10_state.md R13). -/
def State.setI (s : State) (w : Word) : State := { s with i := w }

/-! ## Program counter (10_state.md R15) -/

/-- `pc <- target`. -/
def State.setPc (s : State) (target : Word) : State := { s with pc := target }

/-- The advance of `pc` by the instruction's two bytes, before it executes (40_cycle.md R73). -/
def State.advance (s : State) : State := s.setPc (s.pc + 2#16)

/-- The skip of the next instruction: 2 more on the already advanced `pc` (41_control_flow.md R84). -/
def State.skip (s : State) : State := s.setPc (s.pc + 2#16)

/-- Skip when the condition holds. -/
def State.skipIf (s : State) (c : Bool) : State := if c then s.skip else s

/-- The address of the executing instruction: while it executes, `pc` holds that address plus 2
(10_state.md R15). -/
def State.instrAddr (s : State) : Word := s.pc - 2#16

/-! ## Stack (10_state.md R17, R18) -/

/-- Entry `k` of the stack. -/
def State.stackEntry (s : State) (k : Fin 16) : Word := s.stack[k]

/-- Push `w`: fill slot `sp`, then count it. With all sixteen slots used there is no slot to fill and
nothing happens: 2nnn raises `StackOverflow` before it comes to that (41_control_flow.md R83). -/
def State.push (s : State) (w : Word) : State :=
  if h : s.sp.val < 16 then
    { s with stack := s.stack.set s.sp.val w h, sp := ⟨s.sp.val + 1, by omega⟩ }
  else s

/-- The entry on top of the stack, `stack[sp − 1]`. With no slot used there is no top and the value is
never used: 00EE raises `StackUnderflow` before it comes to that (41_control_flow.md R81). -/
def State.stackTop (s : State) : Word :=
  if h : 0 < s.sp.val then s.stack[s.sp.val - 1]'(by omega) else 0#16

/-- Take one entry off the count; the entry itself keeps its value (10_state.md R17). -/
def State.pop (s : State) : State := { s with sp := ⟨s.sp.val - 1, by omega⟩ }

/-! ## Memory (20_memory.md R41, R42) -/

/-- The byte at an address, with no check. -/
def State.readByte (s : State) (a : Nat) : Byte := s.mem.read a

/-- `MemRead(a, 1)`: the byte, or the address that does not exist (R41). -/
def State.memRead (s : State) (a : Nat) : Except Nat Byte :=
  if a < Config.memSize then .ok (s.readByte a) else .error a

/-- The memory part of `MemWrite(a, 1, v)` (R42). An address that does not exist is not written; an
instruction that stores tests its whole range first and raises `MemoryOutOfBounds` (R47). -/
def State.writeByte (s : State) (a : Nat) (b : Byte) : State :=
  if a < Config.memSize then { s with mem := s.mem.write a b } else s

/-! ## Framebuffer (10_state.md R21, R22) -/

/-- `pixel[py][px]`. -/
def State.pixel (s : State) (py : Fin 32) (px : Fin 64) : Bool := (s.pixels[py])[px]

/-- `pixel[py][px] <- b`. -/
def State.setPixel (s : State) (py : Fin 32) (px : Fin 64) (b : Bool) : State :=
  { s with pixels := s.pixels.set py (s.pixels[py].set px b) }

/-- Every pixel 0. -/
def State.clearPixels (s : State) : State :=
  { s with pixels := Vector.replicate 32 (Vector.replicate 64 false) }

/-- `dirty <- true`. -/
def State.markDirty (s : State) : State := { s with dirty := true }

/-! ## Timers (60_exceptions.md R136 to R140) -/

/-- `Dec(0)`, the open case `TIMER_ZERO_DEC` (R138). -/
def timerZeroDecByte : Byte :=
  match Config.timerZeroDec with
  | .wrap => 255#8
  | .saturate => 0#8

/-- `Dec(v)`, the decrement of step 1 of the tick rule (R137). -/
def timerDec (v : Byte) : Byte := if v = 0#8 then timerZeroDecByte else v - 1#8

/-- Step 1 of the tick rule: an active timer counts down. -/
def Timer.countDown (t : Timer) : Timer :=
  if t.active then { t with value := timerDec t.value } else t

/-- The test of step 2 of the tick rule, on the timer step 1 left: it is about to be activated. -/
def Timer.armed (t : Timer) : Bool := decide (t.value ≠ 0#8) && !t.active

/-- Step 2 of the tick rule, but for its callback: an armed timer becomes active and counts down. -/
def Timer.activate (t : Timer) : Timer :=
  if t.armed then { value := t.value - 1#8, active := true } else t

/-- Step 3 of the tick rule: a timer at 0 is not active. -/
def Timer.expire (t : Timer) : Timer := if t.value = 0#8 then { t with active := false } else t

/-- The timer after one tick: the three steps in order, each on what the one before left (R137). -/
def Timer.tick (t : Timer) : Timer := t.countDown.activate.expire

/-- Whether a tick runs the callback: its step 2 is taken (R137, R139). -/
def Timer.tickFires (t : Timer) : Bool := t.countDown.armed

/-- `DT.value <- b`; `DT.active` stays (45_timer_key.md R115). -/
def State.setDtValue (s : State) (b : Byte) : State := { s with dt := { s.dt with value := b } }

/-- `ST.value <- b`; `ST.active` stays (45_timer_key.md R116). -/
def State.setStValue (s : State) (b : Byte) : State := { s with st := { s.st with value := b } }

/-- The timer tick phase: the delay timer, which has no callback, then the sound timer, whose callback
is `out.beep` (40_cycle.md R77, 60_exceptions.md R139). -/
def State.tickTimers (s : State) : State :=
  { s with dt := s.dt.tick, st := s.st.tick, out := { s.out with beep := s.out.beep || s.st.tickFires } }

/-- The frame flush phase: if `dirty`, notify the renderer and clear it (40_cycle.md R78). -/
def State.flushFrame (s : State) : State :=
  if s.dirty then { s with dirty := false, out := { s.out with frameNotify := true } } else s

/-! ## Host inputs and outputs (10_state.md R27, R28) -/

/-- The host inputs sampled for this cycle: the first of `inputs`, or a free value. -/
def State.input (s : State) : HostInput :=
  match s.inputs with
  | i :: _ => i
  | [] => Config.freeInput s.ticks

/-- The start of a cycle: no output is set yet (40_cycle.md R69). -/
def State.clearOut (s : State) : State := { s with out := HostOutput.quiet }

/-- The end of a cycle: its inputs are used up, the next cycle samples the next ones. -/
def State.nextInput (s : State) : State := { s with inputs := s.inputs.tail, ticks := s.ticks + 1 }

/-- The level output `waiting` (R28). -/
def State.waiting (s : State) : Bool := s.wait.isSome

/-- The level output `halted` (R28). -/
def State.halted (s : State) : Bool := s.fault.isSome

/-! ## The wait of Fx0A (10_state.md R24) -/

/-- `wait <- some x`: the Fx0A is suspended (40_cycle.md R76). -/
def State.suspend (s : State) (x : RegIdx) : State := { s with wait := some x }

/-- The completion of a suspended Fx0A: `V[x] <- zext_8(k); wait <- none` (40_cycle.md R71). -/
def State.resume (s : State) (x : RegIdx) (k : KeyIdx) : State :=
  { s.setV x (BitVec.ofNat 8 k.val) with wait := none }

/-! ## Faults (60_exceptions.md R126, R129) -/

/-- The numeric code of a fault (R126). -/
def FaultKind.code : FaultKind → Nat
  | .unsupportedOpcode => 1
  | .stackOverflow => 2
  | .stackUnderflow => 3
  | .memoryOutOfBounds => 4

/-- TAKING A FAULT, the one operation for all four: the record goes to the latch `fault` and to the
output, `pc` is the address `a` of the faulting instruction (its advance is undone), and nothing else
changes (R129). There is no vector and no handler, and no instruction returns from a fault: only reset
clears the latch (R130). -/
def State.takeFault (s : State) (kind : FaultKind) (a info : Word) : State :=
  { s with
    pc := a
    fault := some { kind := kind, pc := a, info := info }
    out := { s.out with fault := some { kind := kind, pc := a, info := info } } }

/-- A fault raised by the executing instruction, whose address is `pc − 2`. Every instruction tests for
its fault before its first write, so there is nothing else to undo (40_cycle.md R75). -/
def State.raise (s : State) (kind : FaultKind) (info : Word) : State :=
  s.takeFault kind s.instrAddr info

end Sys2Proof.Machine
end

