-- ==== Sys2Proof/Machine/Operands.lean ====
section
/-! DEFINITION. Operands: every operand form of the instruction set (30_encoding.md R56): registers by
number (`State.getV`), bytes and addresses as they stand in the word, the indexed jump target, the key a
register names, the glyph a register names, the decimal digits of a register, and the memory operands at
`I` with their bounds check. -/

namespace Sys2Proof.Machine

/-- `zext_16(addr)`: an absolute address (30_encoding.md R56). -/
def addrOperand (addr : Addr12) : Word := addr.setWidth 16

/-- `zext_16(V[0]) + addr`, 0 to 0x10FE, no mask (41_control_flow.md R88). -/
def State.indexedTarget (s : State) (addr : Addr12) : Word :=
  (s.getV 0).setWidth 16 + addrOperand addr

/-- `zext_16(V[x])` (43_index_memory.md R104). -/
def State.regAsWord (s : State) (x : RegIdx) : Word := (s.getV x).setWidth 16

/-- `zext_16(V[x]) * 5`: where the glyph of a digit starts, for the whole byte (43_index_memory.md
R105). -/
def State.glyphAddr (s : State) (x : RegIdx) : Word := s.regAsWord x * 5#16

/-- `V[x] & 0x0F`, the number of the key a register names (45_timer_key.md R117). -/
def State.keyOf (s : State) (x : RegIdx) : KeyIdx := ⟨(s.getV x).toNat % 16, Nat.mod_lt _ (by decide)⟩

/-- `in.keys[k]`: whether key `k` is pressed in this cycle (10_state.md R27). -/
def State.keyDown (s : State) (k : KeyIdx) : Bool := s.input.keys.getLsbD k.val

/-- The hundreds digit of a byte (43_index_memory.md R106). -/
def hundreds (b : Byte) : Byte := b / 100#8

/-- The tens digit of a byte (43_index_memory.md R106). -/
def tens (b : Byte) : Byte := b / 10#8 % 10#8

/-- The ones digit of a byte (43_index_memory.md R106). -/
def ones (b : Byte) : Byte := b % 10#8

/-- The effective address `I + k`, a natural number that never wraps (20_memory.md R43). -/
def State.ea (s : State) (k : Nat) : Nat := s.i.toNat + k

/-- Whether the `count` bytes from `I` up all exist: no byte, or `I + count − 1 < MEM_SIZE`
(60_exceptions.md R127). -/
def State.blockExists (s : State) (count : Nat) : Bool :=
  decide (count = 0) || decide (s.ea (count - 1) < Config.memSize)

/-- The lowest address that does not exist of a block from `I` up that reaches beyond memory:
`max(I, MEM_SIZE)` (43_index_memory.md R106 to R108). -/
def State.lowestBadAddr (s : State) : Word := BitVec.ofNat 16 (max s.i.toNat Config.memSize)

/-- The fault of an instruction whose block of bytes at `I` reaches beyond memory (20_memory.md R47). -/
def State.raiseOutOfBounds (s : State) : State := s.raise .memoryOutOfBounds s.lowestBadAddr

end Sys2Proof.Machine
end

