-- ==== Sys2Proof/Machine/Control.lean ====
section
/-! DEFINITION. Control transfer: RET, JP, CALL, SE, SNE, JP V0 (41_control_flow.md). In every meaning
`pc` is already the instruction's address plus 2 (40_cycle.md R73). -/

namespace Sys2Proof.Machine

/-- 00EE `RET` (R81). -/
def execRet (s : State) : Host.Outcome State Fault Refusal :=
  if s.sp = 0 then .next (s.raise .stackUnderflow 0#16)
  else .next (s.setPc s.stackTop).pop

/-- 1nnn `JP addr` (R82). -/
def execJp (addr : Addr12) (s : State) : Host.Outcome State Fault Refusal :=
  .next (s.setPc (addrOperand addr))

/-- 2nnn `CALL addr` (R83): the pushed value is the advanced `pc`. -/
def execCall (addr : Addr12) (s : State) : Host.Outcome State Fault Refusal :=
  if s.sp = 16 then .next (s.raise .stackOverflow 0#16)
  else .next ((s.push s.pc).setPc (addrOperand addr))

/-- 3xkk `SE Vx, kk` (R84). -/
def execSeImm (x : RegIdx) (kk : Byte) (s : State) : Host.Outcome State Fault Refusal :=
  .next (s.skipIf (decide (s.getV x = kk)))

/-- 4xkk `SNE Vx, kk` (R85). -/
def execSneImm (x : RegIdx) (kk : Byte) (s : State) : Host.Outcome State Fault Refusal :=
  .next (s.skipIf (decide (s.getV x ≠ kk)))

/-- 5xy0 `SE Vx, Vy` (R86). -/
def execSeReg (x y : RegIdx) (s : State) : Host.Outcome State Fault Refusal :=
  .next (s.skipIf (decide (s.getV x = s.getV y)))

/-- 9xy0 `SNE Vx, Vy` (R87). -/
def execSneReg (x y : RegIdx) (s : State) : Host.Outcome State Fault Refusal :=
  .next (s.skipIf (decide (s.getV x ≠ s.getV y)))

/-- Bnnn `JP V0, addr` (R88). -/
def execJpV0 (addr : Addr12) (s : State) : Host.Outcome State Fault Refusal :=
  .next (s.setPc (s.indexedTarget addr))

end Sys2Proof.Machine
end

