-- ==== Sys2Proof/Machine/Display.lean ====
section
/-! DEFINITION. The framebuffer instructions (44_display.md): 00E0 and Dxyn. -/

namespace Sys2Proof.Machine

/-- 00E0 `CLS` (R111): `dirty` is set even when the screen was dark. -/
def execCls (s : State) : Host.Outcome State Fault Refusal := .next s.clearPixels.markDirty

/-- `(V[x] + bit) mod 64`, the column of a sprite bit counted from the most significant (R110). -/
def State.spriteColumn (s : State) (x : RegIdx) (bit : Nat) : Fin 64 :=
  ⟨((s.getV x).toNat + bit) % 64, Nat.mod_lt _ (by decide)⟩

/-- `(V[y] + row) mod 32`, the framebuffer row of a sprite row (R110). -/
def State.spriteRow (s : State) (y : RegIdx) (row : Nat) : Fin 32 :=
  ⟨((s.getV y).toNat + row) % 32, Nat.mod_lt _ (by decide)⟩

/-- `(b >> (7 − bit)) & 1`, a bit of a sprite byte counted from the most significant (R110). -/
def spriteBit (b : Byte) (bit : Nat) : Bool := b.getLsbD (7 - bit)

/-- The two writes of one sprite bit: `V[0xF] |= color & pixel[py][px]`, `pixel[py][px] ^= color`. -/
def State.xorPixel (s : State) (py : Fin 32) (px : Fin 64) (color : Bool) : State :=
  (s.setFlag (collisionFlag (s.getV vf) color (s.pixel py px))).setPixel py px (xor (s.pixel py px) color)

/-- One sprite bit: `V[x]` and `V[y]` are read here, at every pixel (R112; the spec's decision D9, log
entry 11). -/
def State.plotBit (s : State) (x y : RegIdx) (row : Nat) (b : Byte) (bit : Nat) : State :=
  s.xorPixel (s.spriteRow y row) (s.spriteColumn x bit) (spriteBit b bit)

/-- The first `c` bits of one sprite row, the most significant first. -/
def State.plotBits (s : State) (x y : RegIdx) (row : Nat) (b : Byte) : Nat → State
  | 0 => s
  | bit + 1 => (s.plotBits x y row b bit).plotBit x y row b bit

/-- One sprite row: its byte is read from `I + row`, its 8 bits are plotted. -/
def State.plotRow (s : State) (x y : RegIdx) (row : Nat) : State :=
  s.plotBits x y row (s.readByte (s.ea row)) 8

/-- The first `c` rows of a sprite, from row 0. -/
def State.plotRows (s : State) (x y : RegIdx) : Nat → State
  | 0 => s
  | row + 1 => (s.plotRows x y row).plotRow x y row

/-- Dxyn `DRW Vx, Vy, n` (R112): `VF` is reset, the rows are plotted, `dirty` is set whether or not a
pixel changed. -/
def execDrw (x y : RegIdx) (n : Fin 16) (s : State) : Host.Outcome State Fault Refusal :=
  if s.blockExists n.val then .next ((s.setFlag 0#8).plotRows x y n.val).markDirty
  else .next s.raiseOutOfBounds

end Sys2Proof.Machine
end

