-- ==== Sys2Proof/Machine/IndexMemory.lean ====
section
/-! DEFINITION. Address register and memory transfer (43_index_memory.md). The three that access memory
test their whole range before the first write (20_memory.md R47); none changes `I` (R109) but the
first three. -/

namespace Sys2Proof.Machine

/-- Annn `LD I, addr` (R103). -/
def execLdI (addr : Addr12) (s : State) : Host.Outcome State Fault Refusal :=
  .next (s.setI (addrOperand addr))

/-- Fx1E `LD I, Vx` (R104): an assignment, not an addition. -/
def execLdIVx (x : RegIdx) (s : State) : Host.Outcome State Fault Refusal :=
  .next (s.setI (s.regAsWord x))

/-- Fx29 `LD F, Vx` (R105). -/
def execLdFVx (x : RegIdx) (s : State) : Host.Outcome State Fault Refusal :=
  .next (s.setI (s.glyphAddr x))

/-- The three stores of Fx33: hundreds at `I`, tens at `I + 1`, ones at `I + 2`. -/
def State.storeDigits (s : State) (b : Byte) : State :=
  ((s.writeByte (s.ea 0) (hundreds b)).writeByte (s.ea 1) (tens b)).writeByte (s.ea 2) (ones b)

/-- Fx33 `LD B, Vx` (R106). -/
def execLdBVx (x : RegIdx) (s : State) : Host.Outcome State Fault Refusal :=
  if s.blockExists 3 then .next (s.storeDigits (s.getV x)) else .next s.raiseOutOfBounds

/-- `for k in 0..c−1: MemWrite(I + k, 1, V[k])`. -/
def State.storeRegs (s : State) : Nat → State
  | 0 => s
  | k + 1 => (s.storeRegs k).writeByte (s.ea k) (s.getV (Fin.ofNat 16 k))

/-- Fx55 `LD [I], Vx` (R107): `x + 1` registers. -/
def execLdMemVx (x : RegIdx) (s : State) : Host.Outcome State Fault Refusal :=
  if s.blockExists (x.val + 1) then .next (s.storeRegs (x.val + 1)) else .next s.raiseOutOfBounds

/-- `for k in 0..c−1: V[k] <- MemRead(I + k, 1)`. -/
def State.loadRegs (s : State) : Nat → State
  | 0 => s
  | k + 1 => (s.loadRegs k).setV (Fin.ofNat 16 k) (s.readByte (s.ea k))

/-- Fx65 `LD Vx, [I]` (R108): `x + 1` registers. -/
def execLdVxMem (x : RegIdx) (s : State) : Host.Outcome State Fault Refusal :=
  if s.blockExists (x.val + 1) then .next (s.loadRegs (x.val + 1)) else .next s.raiseOutOfBounds

end Sys2Proof.Machine
end

