-- ==== Sys2Proof/Machine/LoadAlu.lean ====
section
/-! DEFINITION. Register load, arithmetic, logic, shift and random (42_load_alu.md). The statements of a
meaning run in the order written, each register read taking the value the register has at that moment
(R90 (b); the spec's decision D8, log entry 11). -/

namespace Sys2Proof.Machine

/-- 6xkk `LD Vx, kk` (R91). -/
def execLdImm (x : RegIdx) (kk : Byte) (s : State) : Host.Outcome State Fault Refusal :=
  .next (s.setV x kk)

/-- 7xkk `ADD Vx, kk` (R92): wraps, no flag. -/
def execAddImm (x : RegIdx) (kk : Byte) (s : State) : Host.Outcome State Fault Refusal :=
  .next (s.setV x (s.getV x + kk))

/-- 8xy0 `LD Vx, Vy` (R93). -/
def execLdReg (x y : RegIdx) (s : State) : Host.Outcome State Fault Refusal :=
  .next (s.setV x (s.getV y))

/-- 8xy1 `OR Vx, Vy` (R94): no flag. -/
def execOrReg (x y : RegIdx) (s : State) : Host.Outcome State Fault Refusal :=
  .next (s.setV x (s.getV x ||| s.getV y))

/-- 8xy2 `AND Vx, Vy` (R95): no flag. -/
def execAndReg (x y : RegIdx) (s : State) : Host.Outcome State Fault Refusal :=
  .next (s.setV x (s.getV x &&& s.getV y))

/-- 8xy3 `XOR Vx, Vy` (R96): no flag. -/
def execXorReg (x y : RegIdx) (s : State) : Host.Outcome State Fault Refusal :=
  .next (s.setV x (s.getV x ^^^ s.getV y))

/-- 8xy4 `ADD Vx, Vy` (R97): both operands are read before any write; the flag is written, then the
sum. -/
def execAddReg (x y : RegIdx) (s : State) : Host.Outcome State Fault Refusal :=
  .next ((s.setFlag (carryFlag (s.getV x) (s.getV y))).setV x (s.getV x + s.getV y))

/-- The last statement of 8xy5 and 8xy7 on the state the flag write left: `V[d] <- (V[a] − V[b]) mod
256`. -/
def State.subInto (s : State) (d a b : RegIdx) : State := s.setV d (s.getV a - s.getV b)

/-- 8xy5 `SUB Vx, Vy` (R98): the flag is written first and the subtraction reads after it. -/
def execSubReg (x y : RegIdx) (s : State) : Host.Outcome State Fault Refusal :=
  .next ((s.setFlag (greaterFlag (s.getV x) (s.getV y))).subInto x x y)

/-- `V[x] <- V[x] >> 1`, a zero entering at bit 7. -/
def State.shiftRight (s : State) (x : RegIdx) : State := s.setV x (s.getV x >>> 1)

/-- `V[x] <- (V[x] << 1) & 0xFF`. -/
def State.shiftLeft (s : State) (x : RegIdx) : State := s.setV x (s.getV x <<< 1)

/-- 8xy6 `SHR Vx` (R99): the flag first, then the shift; `y` is ignored (30_encoding.md R64). -/
def execShr (x _y : RegIdx) (s : State) : Host.Outcome State Fault Refusal :=
  .next ((s.setFlag (lowBitFlag (s.getV x))).shiftRight x)

/-- 8xy7 `SUBN Vx, Vy` (R100): the flag is written first and the subtraction reads after it. -/
def execSubnReg (x y : RegIdx) (s : State) : Host.Outcome State Fault Refusal :=
  .next ((s.setFlag (greaterFlag (s.getV y) (s.getV x))).subInto x y x)

/-- 8xyE `SHL Vx` (R101): the flag first, then the shift; `y` is ignored (30_encoding.md R64). -/
def execShl (x _y : RegIdx) (s : State) : Host.Outcome State Fault Refusal :=
  .next ((s.setFlag (highBitFlag (s.getV x))).shiftLeft x)

/-- Cxkk `RND Vx, kk` (R102): the random byte is a host input of the cycle, log entry 1. -/
def execRnd (x : RegIdx) (kk : Byte) (s : State) : Host.Outcome State Fault Refusal :=
  .next (s.setV x (kk &&& s.input.rand))

end Sys2Proof.Machine
end

