-- ==== Sys2Proof/Machine/TimerKey.lean ====
section
/-! DEFINITION. Timer access and keypad instructions (45_timer_key.md). The tick of the same cycle comes
after them (R120). -/

namespace Sys2Proof.Machine

/-- Ex9E `SKP Vx` (R117). -/
def execSkp (x : RegIdx) (s : State) : Host.Outcome State Fault Refusal :=
  .next (s.skipIf (s.keyDown (s.keyOf x)))

/-- ExA1 `SKNP Vx` (R118). -/
def execSknp (x : RegIdx) (s : State) : Host.Outcome State Fault Refusal :=
  .next (s.skipIf (!s.keyDown (s.keyOf x)))

/-- Fx07 `LD Vx, DT` (R114). -/
def execLdVxDt (x : RegIdx) (s : State) : Host.Outcome State Fault Refusal :=
  .next (s.setV x s.dt.value)

/-- Fx0A on a key event or on none: the key number goes to `V[x]`, or the instruction is suspended. -/
def State.awaitKey (s : State) (x : RegIdx) : State :=
  match s.input.keyEvent with
  | some k => s.setV x (BitVec.ofNat 8 k.val)
  | none => s.suspend x

/-- Fx0A `LD Vx, K` (R119). -/
def execLdVxK (x : RegIdx) (s : State) : Host.Outcome State Fault Refusal := .next (s.awaitKey x)

/-- Fx15 `LD DT, Vx` (R115). -/
def execLdDtVx (x : RegIdx) (s : State) : Host.Outcome State Fault Refusal :=
  .next (s.setDtValue (s.getV x))

/-- Fx18 `LD ST, Vx` (R116). -/
def execLdStVx (x : RegIdx) (s : State) : Host.Outcome State Fault Refusal :=
  .next (s.setStValue (s.getV x))

end Sys2Proof.Machine
end

