-- ==== Sys2Proof/Machine/Cycle.lean ====
section
/-! DEFINITION. Cycle: the phases of one cycle around the execute phase (40_cycle.md), the host's reset,
and placing an instruction where the next cycle fetches. -/

namespace Sys2Proof.Machine

/-- FETCH (40_cycle.md R72): the word at `pc`, or the lower of the two addresses that does not exist. -/
def State.fetch (s : State) : Except Nat Word :=
  match s.memRead s.pc.toNat with
  | .error a => .error a
  | .ok hi =>
    match s.memRead (s.pc.toNat + 1) with
    | .error a => .error a
    | .ok lo => .ok (wordOfBytes hi lo)

/-- TICK and FLUSH (40_cycle.md R77, R78). -/
def State.finishCycle (s : State) : State := s.tickTimers.flushFrame

/-- What follows the execute phase: nothing after a fault (40_cycle.md R75), nothing now when an Fx0A was
suspended (R76), otherwise TICK and FLUSH. -/
def State.afterExecute (s : State) : State :=
  if s.fault.isSome then s else if s.wait.isSome then s else s.finishCycle

/-- A waiting cycle (40_cycle.md R71): nothing without a key event; with one the Fx0A completes and the
cycle it began runs its TICK and FLUSH. -/
def State.waitingCycle (s : State) (x : RegIdx) : State :=
  match s.input.keyEvent with
  | none => s
  | some k => (s.resume x k).finishCycle

/-- The execute phase and what follows it, for an instruction on the state after the advance. -/
def executeCycle (i : Instr) (s : State) : Host.Outcome State Fault Refusal :=
  match exec i s with
  | .next t => .next t.afterExecute
  | .fault f => .fault f
  | .refused r => .refused r

/-- A cycle that is neither halted nor waiting: FETCH, ADVANCE, EXECUTE, and a fault of the fetch or of
the decoder taken (40_cycle.md R69, R72 to R75). -/
def runningCycle (s : State) : Host.Outcome State Fault Refusal :=
  match s.fetch with
  | .error a => .next (s.takeFault .memoryOutOfBounds s.pc (BitVec.ofNat 16 a))
  | .ok w =>
    match decodeWord w with
    | .error _ => .next (s.advance.raise .unsupportedOpcode w)
    | .ok i => executeCycle i s.advance

/-- The body of `Cycle(state, in)` (40_cycle.md R69) on a state whose outputs are cleared: halted (R70),
waiting (R71), or running. -/
def cycleBody (s : State) : Host.Outcome State Fault Refusal :=
  match s.fault with
  | some _ => .next s
  | none =>
    match s.wait with
    | some x => .next (s.waitingCycle x)
    | none => runningCycle s

/-- The end of a cycle, when its inputs are used up. -/
def endCycle : Host.Outcome State Fault Refusal → Host.Outcome State Fault Refusal
  | .next t => .next t.nextInput
  | .fault f => .fault f
  | .refused r => .refused r

/-- One cycle: outputs cleared, the body, inputs used up (40_cycle.md R68, R69). -/
def runCycle (s : State) : Host.Outcome State Fault Refusal := endCycle (cycleBody s.clearOut)

/-! ## Reset and program loading (70_reset_and_hazards.md R147 to R149) -/

/-- The state after reset with a program image: the image from `LOAD_BASE` up (10_state.md R31). A legal
image has at most 3584 bytes (`imageWellFormed`); bytes beyond the memory are not placed. -/
def State.resetWith (image : List Byte) : State :=
  { State.reset with
    mem := Memory.load [] Config.loadBase (image.take (Config.memSize - Config.loadBase)) }

/-- The host's reset of a running core: nothing the core held survives (R147). The inputs the host will
supply are the host's and go on. -/
def State.hostReset (s : State) (image : List Byte) : State :=
  { State.resetWith image with inputs := s.inputs, ticks := s.ticks }

/-! ## An instruction placed where the next cycle fetches -/

/-- Where an instruction can be fetched from: `pc`, or `LOAD_BASE` when no word fits at `pc`. -/
def State.fetchAddr (s : State) : Word :=
  if s.pc.toNat + 1 < Config.memSize then s.pc else BitVec.ofNat 16 Config.loadBase

/-- The state with a word stored where it fetches, high byte first, and able to fetch: neither halted nor
waiting. -/
def State.placeWord (s : State) (w : Word) : State :=
  let a := s.fetchAddr
  { (s.writeByte a.toNat (highByte w)).writeByte (a.toNat + 1) (lowByte w) with
    pc := a, wait := none, fault := none }

end Sys2Proof.Machine
end

