-- ==== Sys2Proof/Machine/Step.lean ====
section
/-! DEFINITION. Step: one step is one cycle of the core, one call of the host's `tick()` (40_cycle.md
R67). -/

namespace Sys2Proof.Machine

/-- One cycle. -/
def step : State → Host.Outcome State Fault Refusal := runCycle

/-- The state with the instruction whose bits are `w` (the table's numbering, `nbits` of them) stored
where `step` fetches its next instruction; it stands for the load of a program from outside the machine
(log entry 6). -/
def State.withFetchWord (s : State) (nbits w : Nat) : State := s.placeWord (tableWord nbits w)

end Sys2Proof.Machine
end

