-- ==== Sys2Proof/Safety.lean ====
section
/-! DEFINITION. Safety: the terms claims about the core are stated in: the invariant of its cycle
boundaries, and what an instruction leaves unchanged. -/

namespace Sys2Proof.Machine

/-! ## The invariant of cycle boundaries (10_state.md R32) -/

/-- A timer as it is at a cycle boundary: active exactly when its value is above 0 (60_exceptions.md
R140). -/
def Timer.settled (t : Timer) : Prop := t.active = decide (t.value ≠ 0#8)

/-- What holds at every cycle boundary (10_state.md R32), with the bound on the stack entries that the
bound on `pc` rests on (R16) and the canonical form of the memory. `0 ≤ sp ≤ 16` is the type of `sp`. -/
structure State.Inv (s : State) : Prop where
  /-- The memory is in its canonical form. -/
  memCanonical : s.mem.wf = true
  /-- `I ≤ 0xFFF` (R14). -/
  iBound : s.i.toNat ≤ 0xFFF
  /-- `pc ≤ 0x10FE` (R16). -/
  pcBound : s.pc.toNat ≤ 0x10FE
  /-- A pushed value is at most 0x1000 (R16). -/
  stackBound : ∀ k, (s.stackEntry k).toNat ≤ 0x1000
  /-- `dirty` = false (R22). -/
  notDirty : s.dirty = false
  /-- `DT.active` = (`DT.value` > 0). -/
  dtSettled : s.dt.settled
  /-- `ST.active` = (`ST.value` > 0). -/
  stSettled : s.st.settled
  /-- Not both `wait ≠ none` and `fault ≠ none` (60_exceptions.md R131). -/
  oneLatch : s.wait = none ∨ s.fault = none

/-! ## Frames -/

/-- Every general register outside `R` is unchanged. -/
def KeepsRegsBut (R : RegIdx → Prop) (s t : State) : Prop := ∀ r, ¬ R r → t.getV r = s.getV r

/-- Every general register is unchanged. -/
def KeepsRegs (s t : State) : Prop := ∀ r, t.getV r = s.getV r

/-- The return stack and its pointer are unchanged. -/
def KeepsStack (s t : State) : Prop := t.sp = s.sp ∧ ∀ k, t.stackEntry k = s.stackEntry k

/-- Both timers are unchanged. -/
def KeepsTimers (s t : State) : Prop := t.dt = s.dt ∧ t.st = s.st

/-- Every pixel and the dirty flag are unchanged. -/
def KeepsScreen (s t : State) : Prop := (∀ py px, t.pixel py px = s.pixel py px) ∧ t.dirty = s.dirty

/-- Every byte of memory reads as before. -/
def KeepsMemory (s t : State) : Prop := ∀ a, t.readByte a = s.readByte a

/-- Every byte of memory outside `A` reads as before. -/
def KeepsMemoryBut (A : Nat → Prop) (s t : State) : Prop := ∀ a, ¬ A a → t.readByte a = s.readByte a

/-- The latches `wait` and `fault` are unchanged. -/
def KeepsLatches (s t : State) : Prop := t.wait = s.wait ∧ t.fault = s.fault

/-- The host's inputs and the outputs are unchanged. -/
def KeepsPorts (s t : State) : Prop := t.inputs = s.inputs ∧ t.ticks = s.ticks ∧ t.out = s.out

/-- The frame of an instruction that writes general registers of `R` and perhaps `pc`, and nothing
else. -/
structure OnlyRegs (R : RegIdx → Prop) (s t : State) : Prop where
  /-- The registers outside `R`. -/
  regs : KeepsRegsBut R s t
  /-- The address register. -/
  index : t.i = s.i
  /-- The return stack. -/
  stack : KeepsStack s t
  /-- The timers. -/
  timers : KeepsTimers s t
  /-- The framebuffer. -/
  screen : KeepsScreen s t
  /-- Every byte of memory. -/
  memory : KeepsMemory s t
  /-- The latches. -/
  latches : KeepsLatches s t
  /-- The ports. -/
  ports : KeepsPorts s t

/-- The frame of an instruction that writes `pc` and nothing else. -/
def OnlyPc (s t : State) : Prop := OnlyRegs (fun _ => False) s t

/-- The frame of an instruction that writes `I` and nothing else. -/
structure OnlyIndex (s t : State) : Prop where
  /-- The general registers. -/
  regs : KeepsRegs s t
  /-- The program counter. -/
  counter : t.pc = s.pc
  /-- The return stack. -/
  stack : KeepsStack s t
  /-- The timers. -/
  timers : KeepsTimers s t
  /-- The framebuffer. -/
  screen : KeepsScreen s t
  /-- Every byte of memory. -/
  memory : KeepsMemory s t
  /-- The latches. -/
  latches : KeepsLatches s t
  /-- The ports. -/
  ports : KeepsPorts s t

/-- The frame of an instruction that stores to the addresses of `A` and writes nothing else. -/
structure OnlyMemory (A : Nat → Prop) (s t : State) : Prop where
  /-- The general registers. -/
  regs : KeepsRegs s t
  /-- The address register. -/
  index : t.i = s.i
  /-- The program counter. -/
  counter : t.pc = s.pc
  /-- The return stack. -/
  stack : KeepsStack s t
  /-- The timers. -/
  timers : KeepsTimers s t
  /-- The framebuffer. -/
  screen : KeepsScreen s t
  /-- Every byte of memory outside `A`. -/
  memory : KeepsMemoryBut A s t
  /-- The latches. -/
  latches : KeepsLatches s t
  /-- The ports. -/
  ports : KeepsPorts s t

/-- The frame of an instruction that writes `pc`, `sp` and one stack entry, and nothing else; what
becomes of the stack is stated beside it. -/
structure OnlyStackAndPc (s t : State) : Prop where
  /-- The general registers. -/
  regs : KeepsRegs s t
  /-- The address register. -/
  index : t.i = s.i
  /-- The timers. -/
  timers : KeepsTimers s t
  /-- The framebuffer. -/
  screen : KeepsScreen s t
  /-- Every byte of memory. -/
  memory : KeepsMemory s t
  /-- The latches. -/
  latches : KeepsLatches s t
  /-- The ports. -/
  ports : KeepsPorts s t

/-- The frame of an instruction that writes the framebuffer and registers of `R`, and nothing else. -/
structure OnlyScreen (R : RegIdx → Prop) (s t : State) : Prop where
  /-- The registers outside `R`. -/
  regs : KeepsRegsBut R s t
  /-- The address register. -/
  index : t.i = s.i
  /-- The program counter. -/
  counter : t.pc = s.pc
  /-- The return stack. -/
  stack : KeepsStack s t
  /-- The timers. -/
  timers : KeepsTimers s t
  /-- Every byte of memory. -/
  memory : KeepsMemory s t
  /-- The latches. -/
  latches : KeepsLatches s t
  /-- The ports. -/
  ports : KeepsPorts s t

/-- The frame of an instruction that writes timers and nothing else. -/
structure OnlyTimers (s t : State) : Prop where
  /-- The general registers. -/
  regs : KeepsRegs s t
  /-- The address register. -/
  index : t.i = s.i
  /-- The program counter. -/
  counter : t.pc = s.pc
  /-- The return stack. -/
  stack : KeepsStack s t
  /-- The framebuffer. -/
  screen : KeepsScreen s t
  /-- Every byte of memory. -/
  memory : KeepsMemory s t
  /-- The latches. -/
  latches : KeepsLatches s t
  /-- The ports. -/
  ports : KeepsPorts s t

/-- Entering a fault (60_exceptions.md R129): the record is latched and output, `pc` is the address of the
faulting instruction, and everything else is unchanged. -/
structure FaultTaken (s t : State) (r : FaultRecord) : Prop where
  /-- The latch. -/
  latched : t.fault = some r
  /-- The output. -/
  output : t.out = { s.out with fault := some r }
  /-- The advance of `pc` is undone. -/
  counter : t.pc = r.pc
  /-- The general registers. -/
  regs : KeepsRegs s t
  /-- The address register. -/
  index : t.i = s.i
  /-- The return stack. -/
  stack : KeepsStack s t
  /-- The timers. -/
  timers : KeepsTimers s t
  /-- The framebuffer. -/
  screen : KeepsScreen s t
  /-- Every byte of memory. -/
  memory : KeepsMemory s t
  /-- The wait latch. -/
  wait : t.wait = s.wait
  /-- The host's inputs. -/
  inputs : t.inputs = s.inputs ∧ t.ticks = s.ticks

/-- Two states agree in every piece of state the spec gives the core; their ports may differ. -/
structure SameCore (s t : State) : Prop where
  /-- The general registers. -/
  regs : KeepsRegs s t
  /-- The address register. -/
  index : t.i = s.i
  /-- The program counter. -/
  counter : t.pc = s.pc
  /-- The return stack. -/
  stack : KeepsStack s t
  /-- The timers. -/
  timers : KeepsTimers s t
  /-- The framebuffer. -/
  screen : KeepsScreen s t
  /-- Every byte of memory. -/
  memory : KeepsMemory s t
  /-- The latches. -/
  latches : KeepsLatches s t

/-! ## What a sprite covers (44_display.md R110) -/

/-- `(b >> (7 − bit)) & 1` = 1, with the numbers written out: bit 0 is the most significant (20_memory.md
R45, 44_display.md R110). -/
def bitFromTheLeft (b : Byte) (bit : Nat) : Bool := decide (b.toNat / 2 ^ (7 - bit) % 2 = 1)

/-- Bit `bit` of sprite row `row` is 1 and lands on pixel (`px`, `py`), with the row, the column and the
address written out as 44_display.md R110 and R112 have them. -/
def State.spriteBitAt (s : State) (x y : RegIdx) (row bit : Nat) (py : Fin 32) (px : Fin 64) : Bool :=
  decide (((s.getV y).toNat + row) % 32 = py.val) && decide (((s.getV x).toNat + bit) % 64 = px.val) &&
    bitFromTheLeft (s.readByte (s.i.toNat + row)) bit

/-- Some 1 bit of the sprite's first `n` rows lands on pixel (`px`, `py`). -/
def State.spriteCovers (s : State) (x y : RegIdx) (n : Nat) (py : Fin 32) (px : Fin 64) : Bool :=
  (List.range n).any fun row => (List.range 8).any fun bit => s.spriteBitAt x y row bit py px

/-- One bit of a sprite, on a flag and a grid of pixels instead of a state: bit `k % 8` of row `k / 8`.
A coordinate register that is `VF` is the flag as it stands (44_display.md R112 (e)). -/
def State.plotOnGrid (s : State) (x y : RegIdx) (acc : Bool × (Fin 32 → Fin 64 → Bool)) (k : Nat) :
    Bool × (Fin 32 → Fin 64 → Bool) :=
  let column : Nat := if x = vf then acc.1.toNat else (s.getV x).toNat
  let line : Nat := if y = vf then acc.1.toNat else (s.getV y).toNat
  let px := Fin.ofNat 64 (column + k % 8)
  let py := Fin.ofNat 32 (line + k / 8)
  let color := bitFromTheLeft (s.readByte (s.i.toNat + k / 8)) (k % 8)
  (acc.1 || (color && acc.2 py px),
    fun qy qx => if qy = py ∧ qx = px then xor (acc.2 qy qx) color else acc.2 qy qx)

/-! ## What memory holds after a store (43_index_memory.md R106, R107) -/

/-- The byte at `a` after Fx55, as a number: `V[a − I]` in the block from `I` to `I + x`, the old byte
elsewhere. -/
def State.byteAfterStoreRegs (s : State) (x : RegIdx) (a : Nat) : Nat :=
  if s.i.toNat ≤ a ∧ a ≤ s.i.toNat + x.val then (s.getV (Fin.ofNat 16 (a - s.i.toNat))).toNat
  else (s.readByte a).toNat

/-- The byte at `a` after Fx33, as a number: a decimal digit of `V[x]` at `I`, `I + 1` and `I + 2`, the old
byte elsewhere. -/
def State.byteAfterStoreDigits (s : State) (x : RegIdx) (a : Nat) : Nat :=
  if a = s.i.toNat then (s.getV x).toNat / 100
  else if a = s.i.toNat + 1 then (s.getV x).toNat / 10 % 10
  else if a = s.i.toNat + 2 then (s.getV x).toNat % 10
  else (s.readByte a).toNat

/-! ## The program-counter law (40_cycle.md R79) -/

/-- `pc` after a cycle that executes `i` from state `s` and does not fault, with `a` = `s.pc` the address
of the instruction. -/
def State.pcAfter (s : State) : Instr → Word
  | .jp addr | .call addr => addr.setWidth 16
  | .jpV0 addr => (s.getV 0).setWidth 16 + addr.setWidth 16
  | .ret => s.stackEntry (Fin.ofNat 16 (s.sp.val - 1))
  | .seImm x kk => if s.getV x = kk then s.pc + 4#16 else s.pc + 2#16
  | .sneImm x kk => if s.getV x ≠ kk then s.pc + 4#16 else s.pc + 2#16
  | .seReg x y => if s.getV x = s.getV y then s.pc + 4#16 else s.pc + 2#16
  | .sneReg x y => if s.getV x ≠ s.getV y then s.pc + 4#16 else s.pc + 2#16
  | .skp x => if s.input.keys.getLsbD ((s.getV x).toNat % 16) then s.pc + 4#16 else s.pc + 2#16
  | .sknp x => if s.input.keys.getLsbD ((s.getV x).toNat % 16) then s.pc + 2#16 else s.pc + 4#16
  | _ => s.pc + 2#16

/-! ## Who writes what -/

/-- The instructions that write `VF` as a flag (10_state.md R11). -/
def writesFlag : Instr → Bool
  | .addReg _ _ | .subReg _ _ | .shr _ _ | .subnReg _ _ | .shl _ _ | .drw _ _ _ => true
  | _ => false

/-- Whether an instruction names register `r` as its destination: its `x` field, or for Fx65 a register
its load range reaches. -/
def hasDest (i : Instr) (r : RegIdx) : Bool :=
  match i with
  | .ldImm x _ | .addImm x _ | .ldReg x _ | .orReg x _ | .andReg x _ | .xorReg x _ => decide (r = x)
  | .addReg x _ | .subReg x _ | .shr x _ | .subnReg x _ | .shl x _ | .rnd x _ => decide (r = x)
  | .ldVxDt x | .ldVxK x => decide (r = x)
  | .ldVxMem x => decide (r ≤ x)
  | _ => false

/-! ## Runs -/

/-- The state after `k` cycles, each of which answers a next state. -/
def stepsTo : Nat → State → State → Prop
  | 0, s, t => s = t
  | k + 1, s, t => ∃ u, step s = .next u ∧ stepsTo k u t

end Sys2Proof.Machine
end

