-- ==== Sys2Proof/Certificates/Slice0/Obligations.lean ====
section
/-! DEFINITION. The statements for the provers. Each docstring names the rule of spec/ it formalises, and
the decision of the spec or the log entry it rests on where there is one. -/

open Sys2Proof Sys2Proof.Machine

/-! ## Encoding -/

/-- For every family a word written out from its pattern decodes to its instruction, two bytes decode as
the word whose high byte is the first, and a word of each group that is no instruction is rejected
(30_encoding.md R57 to R63, 20_memory.md R44; vectors TE1 to TE10). That the instructions of 0x8AB6 and
0x812E keep their ignored `y` is the model's choice (log entry 16, DESIGN CHOICE; 30_encoding.md R64). -/
def Obligations.DecodeReadsWrittenOutWords : Prop :=
  decodeWord 0x00E0#16 = .ok .cls ∧ decodeWord 0x00EE#16 = .ok .ret ∧
  decodeWord 0x1234#16 = .ok (.jp 0x234#12) ∧ decodeWord 0x10E0#16 = .ok (.jp 0x0E0#12) ∧
  decodeWord 0x63AB#16 = .ok (.ldImm 3 0xAB#8) ∧ decodeWord 0x5120#16 = .ok (.seReg 1 2) ∧
  decodeWord 0x8AB6#16 = .ok (.shr 10 11) ∧ decodeWord 0x812E#16 = .ok (.shl 1 2) ∧
  decodeWord 0xD5A3#16 = .ok (.drw 5 10 3) ∧ decodeWord 0xE29E#16 = .ok (.skp 2) ∧
  decodeWord 0xF21E#16 = .ok (.ldIVx 2) ∧ decodeWord 0xF265#16 = .ok (.ldVxMem 2) ∧
  decode [0x12#8, 0x34#8] = .ok (.jp 0x234#12, []) ∧
  decodeWord 0x0123#16 = .error (.unsupportedOpcode 0x0123#16) ∧
  decodeWord 0x5121#16 = .error (.unsupportedOpcode 0x5121#16) ∧
  decodeWord 0x812D#16 = .error (.unsupportedOpcode 0x812D#16) ∧
  decodeWord 0x9125#16 = .error (.unsupportedOpcode 0x9125#16) ∧
  decodeWord 0xE19F#16 = .error (.unsupportedOpcode 0xE19F#16) ∧
  decodeWord 0xF175#16 = .error (.unsupportedOpcode 0xF175#16)

/-- Every instruction, with every operand at every value, decodes from its two stored bytes, whatever
follows them, and the first of the two is the high byte of its word (30_encoding.md R54 to R62,
20_memory.md R44). That a term of 8xy6 or 8xyE has a `y`, which comes back too, is the model's choice (log
entry 16, DESIGN CHOICE; the instructions ignore it, 30_encoding.md R64). -/
def Obligations.DecodeGivesBackEveryEncodedInstruction : Prop :=
  ∀ (i : Instr) (rest : List Byte), i.wellFormed = true →
    decode (encodeBytes i ++ rest) = .ok (i, rest) ∧
    ∃ hi lo : Byte, encodeBytes i = [hi, lo] ∧ (encodeWord i).toNat = hi.toNat * 256 + lo.toNat

/-- A word that decodes is the word of the instruction it decodes to: no bit of it is dropped
(30_encoding.md R54 to R62). For the words of 8xy6 and 8xyE this rests on the model's choice to keep in the
syntax the `y` field that these instructions ignore (log entry 16, DESIGN CHOICE): by 30_encoding.md R64
every `y` is the same instruction of the spec. -/
def Obligations.EncodeGivesBackEveryDecodedWord : Prop :=
  ∀ (w : Word) (i : Instr), decodeWord w = .ok i → encodeWord i = w

/-- The decoder accepts exactly the words that a row of the opcode table covers (30_encoding.md R57 to
R63, spec/opcode_table.json). -/
def Obligations.DecoderAcceptsExactlyTheOpcodeTable : Prop :=
  ∀ w : Word, (∃ i, decodeWord w = .ok i) ↔ ∃ r ∈ opcodeTable, r.covers w = true

/-- No word is covered by two rows of the opcode table (30_encoding.md R65). -/
def Obligations.OpcodeTableRowsDoNotOverlap : Prop :=
  ∀ (w : Word), ∀ r ∈ opcodeTable, ∀ q ∈ opcodeTable, r.covers w = true → q.covers w = true → r = q

/-- The words that are no instruction are exactly those of the table of 30_encoding.md R63, group by
group; each is rejected with the word itself. Groups 0, 5 and 9 are strict by the spec's decision D7. -/
def Obligations.UnsupportedWordsAreThoseOfTheTable : Prop :=
  ∀ w : Word, decodeWord w = .error (.unsupportedOpcode w) ↔
    (w.toNat / 4096 = 0x0 ∧ w ≠ 0x00E0#16 ∧ w ≠ 0x00EE#16) ∨
    (w.toNat / 4096 = 0x5 ∧ w.toNat % 16 ≠ 0) ∨
    (w.toNat / 4096 = 0x8 ∧ w.toNat % 16 ∈ [0x8, 0x9, 0xA, 0xB, 0xC, 0xD, 0xF]) ∨
    (w.toNat / 4096 = 0x9 ∧ w.toNat % 16 ≠ 0) ∨
    (w.toNat / 4096 = 0xE ∧ w.toNat % 256 ∉ [0x9E, 0xA1]) ∨
    (w.toNat / 4096 = 0xF ∧ w.toNat % 256 ∉ [0x07, 0x0A, 0x15, 0x18, 0x1E, 0x29, 0x33, 0x55, 0x65])

/-! ## Reset -/

/-- The state after reset with a legal image: every register, the stack, the timers, the screen and the
latches, and every byte of memory as a function of the image (10_state.md R30, R31). The zeros are the
spec's decision D4, the glyph bytes its general knowledge D3 (log entries 4 and 5). -/
def Obligations.ResetLeavesTheStatedState : Prop :=
  ∀ image : List Byte, imageWellFormed image = true →
    (∀ r, (State.resetWith image).getV r = 0#8) ∧ (State.resetWith image).i = 0x0000#16 ∧
    (State.resetWith image).pc = 0x0200#16 ∧ (State.resetWith image).sp = 0 ∧
    (∀ k, (State.resetWith image).stackEntry k = 0x0000#16) ∧
    (State.resetWith image).dt = { value := 0#8, active := false } ∧
    (State.resetWith image).st = { value := 0#8, active := false } ∧
    (∀ py px, (State.resetWith image).pixel py px = false) ∧ (State.resetWith image).dirty = false ∧
    (State.resetWith image).wait = none ∧ (State.resetWith image).fault = none ∧
    (∀ a < 0x50, (State.resetWith image).readByte a = glyphs.getD a 0#8) ∧
    (∀ a, 0x50 ≤ a → a < 0x200 → (State.resetWith image).readByte a = 0x00#8) ∧
    (∀ k, k < image.length → (State.resetWith image).readByte (0x200 + k) = image.getD k 0#8) ∧
    (∀ a, 0x200 + image.length ≤ a → a < 4096 → (State.resetWith image).readByte a = 0x00#8)

/-- The invariant of cycle boundaries holds at reset, with no image and with every legal one (10_state.md
R32). That the memory is canonical and that a stack entry is at most 0x1000 are parts of the invariant that
the model adds (log entries 7 and 9). -/
def Obligations.ResetMeetsTheInvariant : Prop :=
  State.reset.Inv ∧ ∀ image : List Byte, imageWellFormed image = true → (State.resetWith image).Inv

/-- A reset leaves nothing of what the core held: its outcome does not depend on the state it finds, but
for the host's own coming inputs, and it clears the fault and the wait (70_reset_and_hazards.md R147,
60_exceptions.md R130). -/
def Obligations.ResetForgetsTheOldState : Prop :=
  ∀ (s u : State) (image : List Byte),
    (s.hostReset image).fault = none ∧ (s.hostReset image).wait = none ∧
    { s.hostReset image with inputs := u.inputs, ticks := u.ticks } = u.hostReset image

/-- The first cycle after reset fetches the first two bytes of the image, as the number whose high byte is
the first: 256 times the first and the second (70_reset_and_hazards.md R148; 20_memory.md R44). Entry at `LOAD_BASE` is the spec's decision D2. -/
def Obligations.FirstFetchAfterResetReadsTheImage : Prop :=
  ∀ (b0 b1 : Byte) (rest : List Byte), imageWellFormed (b0 :: b1 :: rest) = true →
    ∃ w : Word, (State.resetWith (b0 :: b1 :: rest)).fetch = .ok w ∧
      w.toNat = b0.toNat * 256 + b1.toNat

/-! ## Register load, arithmetic, logic, shift and random -/

/-- 6xkk, 7xkk, 8xy0, 8xy1, 8xy2, 8xy3: the register `x` gets the value, wrapping modulo 256, and nothing
else changes, `VF` included unless it is `x` (42_load_alu.md R91 to R96). -/
def Obligations.LoadAddImmediateAndLogicResults : Prop :=
  ∀ (x y : RegIdx) (kk : Byte) (s : State),
    (∃ t, exec (.ldImm x kk) s = .next t ∧ t.getV x = kk ∧ t.pc = s.pc ∧ OnlyRegs (· = x) s t) ∧
    (∃ t, exec (.addImm x kk) s = .next t ∧
      (t.getV x).toNat = ((s.getV x).toNat + kk.toNat) % 256 ∧ t.pc = s.pc ∧ OnlyRegs (· = x) s t) ∧
    (∃ t, exec (.ldReg x y) s = .next t ∧ t.getV x = s.getV y ∧ t.pc = s.pc ∧ OnlyRegs (· = x) s t) ∧
    (∃ t, exec (.orReg x y) s = .next t ∧ t.getV x = s.getV x ||| s.getV y ∧ t.pc = s.pc ∧
      OnlyRegs (· = x) s t) ∧
    (∃ t, exec (.andReg x y) s = .next t ∧ t.getV x = s.getV x &&& s.getV y ∧ t.pc = s.pc ∧
      OnlyRegs (· = x) s t) ∧
    (∃ t, exec (.xorReg x y) s = .next t ∧ t.getV x = s.getV x ^^^ s.getV y ∧ t.pc = s.pc ∧
      OnlyRegs (· = x) s t)

/-- 8xy4: `V[x]` gets the low byte of the sum of the old operands, whatever `x` and `y` are, and `VF` the
carry unless `x` is `VF`, when the sum overwrites it (42_load_alu.md R97). The form with `x` = 15 rests
on the spec's decision D8 (log entry 11). -/
def Obligations.AddRegistersGivesSumAndCarry : Prop :=
  ∀ (x y : RegIdx) (s : State), ∃ t, exec (.addReg x y) s = .next t ∧
    (t.getV x).toNat = ((s.getV x).toNat + (s.getV y).toNat) % 256 ∧
    (x ≠ vf → t.getV vf = if (s.getV x).toNat + (s.getV y).toNat > 255 then 1#8 else 0#8) ∧
    t.pc = s.pc ∧ OnlyRegs (fun r => r = x ∨ r = vf) s t

/-- 8xy5 and 8xy7: `VF` is 1 exactly when the minuend is strictly greater, and the difference wraps; the
four cases of operands that are or are not `VF` as 42_load_alu.md R98 and R100 list them. The forms with
15 rest on the spec's decision D8 (log entry 11). -/
def Obligations.SubtractionsGiveDifferenceAndStrictFlag : Prop :=
  ∀ (x y : RegIdx) (s : State),
    (∃ t, exec (.subReg x y) s = .next t ∧ t.pc = s.pc ∧ OnlyRegs (fun r => r = x ∨ r = vf) s t ∧
      ∃ f : Byte, f = (if (s.getV x).toNat > (s.getV y).toNat then 1#8 else 0#8) ∧
      (x ≠ vf → t.getV vf = f) ∧
      (x ≠ vf → y ≠ vf →
        (t.getV x).toNat = ((s.getV x).toNat + 256 - (s.getV y).toNat) % 256) ∧
      (x ≠ vf → y = vf → (t.getV x).toNat = ((s.getV x).toNat + 256 - f.toNat) % 256) ∧
      (x = vf → y ≠ vf → (t.getV vf).toNat = (f.toNat + 256 - (s.getV y).toNat) % 256) ∧
      (x = y → t.getV vf = 0#8 ∧ t.getV x = 0#8)) ∧
    (∃ t, exec (.subnReg x y) s = .next t ∧ t.pc = s.pc ∧ OnlyRegs (fun r => r = x ∨ r = vf) s t ∧
      ∃ f : Byte, f = (if (s.getV y).toNat > (s.getV x).toNat then 1#8 else 0#8) ∧
      (x ≠ vf → t.getV vf = f) ∧
      (x ≠ vf → y ≠ vf →
        (t.getV x).toNat = ((s.getV y).toNat + 256 - (s.getV x).toNat) % 256) ∧
      (x ≠ vf → y = vf → (t.getV x).toNat = (f.toNat + 256 - (s.getV x).toNat) % 256) ∧
      (x = vf → y ≠ vf → (t.getV vf).toNat = ((s.getV y).toNat + 256 - f.toNat) % 256) ∧
      (x = y → t.getV vf = 0#8 ∧ t.getV x = 0#8))

/-- 8xy6 and 8xyE: `V[x]` is shifted by one and `VF` gets the bit shifted out; with `x` = 15 `VF` ends as
0, or as 0 or 2 (42_load_alu.md R99, R101). The forms with 15 rest on the spec's decision D8 (log entry
11). -/
def Obligations.ShiftsGiveHalfOrDoubleAndTheBitShiftedOut : Prop :=
  ∀ (x y : RegIdx) (s : State),
    (∃ t, exec (.shr x y) s = .next t ∧ t.pc = s.pc ∧ OnlyRegs (fun r => r = x ∨ r = vf) s t ∧
      (x ≠ vf → (t.getV x).toNat = (s.getV x).toNat / 2 ∧ (t.getV vf).toNat = (s.getV x).toNat % 2) ∧
      (x = vf → t.getV vf = 0#8)) ∧
    (∃ t, exec (.shl x y) s = .next t ∧ t.pc = s.pc ∧ OnlyRegs (fun r => r = x ∨ r = vf) s t ∧
      (x ≠ vf → (t.getV x).toNat = (s.getV x).toNat * 2 % 256 ∧
        (t.getV vf).toNat = (s.getV x).toNat / 128) ∧
      (x = vf → (t.getV vf).toNat = (s.getV vf).toNat / 128 * 2))

/-- 8xy6 and 8xyE ignore their `y` field (30_encoding.md R64). -/
def Obligations.ShiftsIgnoreTheSecondRegister : Prop :=
  ∀ (x y z : RegIdx) (s : State),
    exec (.shr x y) s = exec (.shr x z) s ∧ exec (.shl x y) s = exec (.shl x z) s

/-- Cxkk: `V[x]` gets `kk` and the random byte the host supplies for the cycle, for every such byte
(42_load_alu.md R102; the input is the spec's decision D15, log entry 1). -/
def Obligations.RandomByteIsMasked : Prop :=
  ∀ (x : RegIdx) (kk : Byte) (s : State) (a : HostInput) (rest : List HostInput), s.inputs = a :: rest →
    ∃ t, exec (.rnd x kk) s = .next t ∧ t.getV x = kk &&& a.rand ∧ t.pc = s.pc ∧ OnlyRegs (· = x) s t

/-- Cxkk completes whatever the host supplies, listed in `State.inputs` or free, and the result has no bit
that `kk` has not (42_load_alu.md R102). -/
def Obligations.RandomByteStaysWithinItsMask : Prop :=
  ∀ (x : RegIdx) (kk : Byte) (s : State), ∃ t, exec (.rnd x kk) s = .next t ∧
    t.getV x &&& ~~~kk = 0#8 ∧ t.pc = s.pc ∧ OnlyRegs (· = x) s t

/-! ## Control transfer -/

/-- 1nnn and Bnnn: `pc` becomes the address, or the address plus `V[0]` with no mask, and nothing else
changes (41_control_flow.md R82, R88). -/
def Obligations.JumpsSetThePc : Prop :=
  ∀ (addr : Addr12) (s : State),
    (∃ t, exec (.jp addr) s = .next t ∧ t.pc.toNat = addr.toNat ∧ OnlyPc s t) ∧
    (∃ t, exec (.jpV0 addr) s = .next t ∧ t.pc.toNat = (s.getV 0).toNat + addr.toNat ∧ OnlyPc s t)

/-- 3xkk, 4xkk, 5xy0, 9xy0: 2 is added to the advanced `pc` when the condition holds, and nothing else
changes (41_control_flow.md R84 to R87). -/
def Obligations.SkipsAddTwoWhenTheConditionHolds : Prop :=
  ∀ (x y : RegIdx) (kk : Byte) (s : State),
    (∃ t, exec (.seImm x kk) s = .next t ∧
      t.pc = (if s.getV x = kk then s.pc + 2#16 else s.pc) ∧ OnlyPc s t) ∧
    (∃ t, exec (.sneImm x kk) s = .next t ∧
      t.pc = (if s.getV x ≠ kk then s.pc + 2#16 else s.pc) ∧ OnlyPc s t) ∧
    (∃ t, exec (.seReg x y) s = .next t ∧
      t.pc = (if s.getV x = s.getV y then s.pc + 2#16 else s.pc) ∧ OnlyPc s t) ∧
    (∃ t, exec (.sneReg x y) s = .next t ∧
      t.pc = (if s.getV x ≠ s.getV y then s.pc + 2#16 else s.pc) ∧ OnlyPc s t)

/-- For every state exactly one of 3xkk and 4xkk with the same operands skips, and exactly one of Ex9E and
ExA1 (41_control_flow.md R85, 45_timer_key.md R118). -/
def Obligations.OppositeSkipsAreComplementary : Prop :=
  ∀ (x : RegIdx) (kk : Byte) (s t u : State),
    (exec (.seImm x kk) s = .next t → exec (.sneImm x kk) s = .next u →
      (t.pc = s.pc + 2#16 ∧ u.pc = s.pc) ∨ (t.pc = s.pc ∧ u.pc = s.pc + 2#16)) ∧
    (exec (.skp x) s = .next t → exec (.sknp x) s = .next u →
      (t.pc = s.pc + 2#16 ∧ u.pc = s.pc) ∨ (t.pc = s.pc ∧ u.pc = s.pc + 2#16))

/-- 2nnn with a free slot: the advanced `pc` goes to slot `sp`, `sp` counts it, `pc` becomes the address;
no other entry changes, and nothing else (41_control_flow.md R83). That the push fills slot `sp` is the
spec's own inference. -/
def Obligations.CallPushesTheReturnAddress : Prop :=
  ∀ (addr : Addr12) (s : State), s.sp.val < 16 → ∃ t, exec (.call addr) s = .next t ∧
    t.pc.toNat = addr.toNat ∧ t.sp.val = s.sp.val + 1 ∧
    (∀ k : Fin 16, t.stackEntry k = if k.val = s.sp.val then s.pc else s.stackEntry k) ∧
    OnlyStackAndPc s t

/-- 00EE with a used slot: `pc` becomes the top entry, `sp` is one less, every entry keeps its value and
nothing else changes (41_control_flow.md R81). That a pop does not clear is the spec's decision D27. -/
def Obligations.ReturnPopsTheReturnAddress : Prop :=
  ∀ s : State, 0 < s.sp.val → ∃ t, exec .ret s = .next t ∧
    (∀ k : Fin 16, k.val + 1 = s.sp.val → t.pc = s.stackEntry k) ∧ t.sp.val + 1 = s.sp.val ∧
    (∀ k, t.stackEntry k = s.stackEntry k) ∧ OnlyStackAndPc s t

/-- A call and a return resume at the instruction after the call with the old stack pointer, in whatever
state the callee leaves that has the stack pointer and the one entry of this call as the call left them:
a callee may itself have called and returned, its entries above `sp` being anything (41_control_flow.md
R83, R81, 10_state.md R17; vector S6). -/
def Obligations.ReturnResumesAfterTheCall : Prop :=
  ∀ (addr : Addr12) (s t u : State), s.sp.val < 16 → exec (.call addr) s = .next t → u.sp = t.sp →
    (∀ k : Fin 16, k.val = s.sp.val → u.stackEntry k = t.stackEntry k) →
    ∃ v, exec .ret u = .next v ∧ v.pc = s.pc ∧ v.sp = s.sp

/-- A call with sixteen calls outstanding raises `StackOverflow`, a return with none `StackUnderflow`, with
the address of the instruction and info 0, and with no other effect (60_exceptions.md R123, R124, R126,
R129). The entry is the spec's decision D10 (log entry 8). -/
def Obligations.StackFaultsAtBothEnds : Prop :=
  ∀ (addr : Addr12) (s : State),
    (s.sp.val = 16 → ∃ t, exec (.call addr) s = .next t ∧
      FaultTaken s t { kind := .stackOverflow, pc := s.pc - 2#16, info := 0#16 }) ∧
    (s.sp.val = 0 → ∃ t, exec .ret s = .next t ∧
      FaultTaken s t { kind := .stackUnderflow, pc := s.pc - 2#16, info := 0#16 })

/-! ## Address register and memory transfer -/

/-- Annn, Fx1E, Fx29: `I` becomes the address, the register, or five times the register, and nothing else
changes (43_index_memory.md R103 to R105). -/
def Obligations.IndexLoadsSetI : Prop :=
  ∀ (addr : Addr12) (x : RegIdx) (s : State),
    (∃ t, exec (.ldI addr) s = .next t ∧ t.i.toNat = addr.toNat ∧ OnlyIndex s t) ∧
    (∃ t, exec (.ldIVx x) s = .next t ∧ t.i.toNat = (s.getV x).toNat ∧ OnlyIndex s t) ∧
    (∃ t, exec (.ldFVx x) s = .next t ∧ t.i.toNat = (s.getV x).toNat * 5 ∧ OnlyIndex s t)

/-- Fx33 with its three bytes in memory: the decimal digits of `V[x]`, hundreds first, at `I`, `I+1` and
`I+2`; every other byte reads as before and nothing else changes (43_index_memory.md R106). A memory in
canonical form is an invariant of the model (log entry 7). -/
def Obligations.StoreDecimalWritesThreeDigits : Prop :=
  ∀ (x : RegIdx) (s : State), s.mem.wf = true → s.i.toNat + 2 < 4096 →
    ∃ t, exec (.ldBVx x) s = .next t ∧
      (t.readByte (s.ea 0)).toNat = (s.getV x).toNat / 100 ∧
      (t.readByte (s.ea 1)).toNat = (s.getV x).toNat / 10 % 10 ∧
      (t.readByte (s.ea 2)).toNat = (s.getV x).toNat % 10 ∧
      OnlyMemory (fun a => a = s.ea 0 ∨ a = s.ea 1 ∨ a = s.ea 2) s t ∧ t.mem.wf = true

/-- Fx55 with its `x + 1` bytes in memory: `V[k]` at `I + k` for every `k` up to `x`; every other byte reads
as before and nothing else changes, `I` included (43_index_memory.md R107). A memory in canonical form is
an invariant of the model (log entry 7). -/
def Obligations.StoreRegistersWritesTheBlock : Prop :=
  ∀ (x : RegIdx) (s : State), s.mem.wf = true → s.i.toNat + x.val < 4096 →
    ∃ t, exec (.ldMemVx x) s = .next t ∧
      (∀ k : RegIdx, k ≤ x → t.readByte (s.ea k.val) = s.getV k) ∧
      OnlyMemory (fun a => ∃ k : RegIdx, k ≤ x ∧ a = s.ea k.val) s t ∧ t.mem.wf = true

/-- Fx65 with its `x + 1` bytes in memory: every `V[k]` up to `x` gets the byte at `I + k`; the registers
above `x`, memory, `I` and everything else are unchanged (43_index_memory.md R108). -/
def Obligations.LoadRegistersReadsTheBlock : Prop :=
  ∀ (x : RegIdx) (s : State), s.i.toNat + x.val < 4096 →
    ∃ t, exec (.ldVxMem x) s = .next t ∧
      (∀ k : RegIdx, k ≤ x → t.getV k = s.readByte (s.ea k.val)) ∧ t.pc = s.pc ∧
      OnlyRegs (fun r => r ≤ x) s t

/-- Fx33, Fx55, Fx65 and Dxyn with a byte beyond memory raise `MemoryOutOfBounds` with the lowest such
address and have no other effect (20_memory.md R47, 43_index_memory.md R106 to R108, 44_display.md
R112). All-or-nothing is the spec's decision D12, the entry D10 (log entry 8). -/
def Obligations.BlocksBeyondMemoryFaultWithNoEffect : Prop :=
  ∀ (x y : RegIdx) (n : Fin 16) (s : State),
    (4096 ≤ s.i.toNat + 2 → ∃ t, exec (.ldBVx x) s = .next t ∧ FaultTaken s t
      { kind := .memoryOutOfBounds, pc := s.pc - 2#16, info := BitVec.ofNat 16 (max s.i.toNat 4096) }) ∧
    (4096 ≤ s.i.toNat + x.val →
      (∃ t, exec (.ldMemVx x) s = .next t ∧ FaultTaken s t
        { kind := .memoryOutOfBounds, pc := s.pc - 2#16, info := BitVec.ofNat 16 (max s.i.toNat 4096) }) ∧
      (∃ t, exec (.ldVxMem x) s = .next t ∧ FaultTaken s t
        { kind := .memoryOutOfBounds, pc := s.pc - 2#16, info := BitVec.ofNat 16 (max s.i.toNat 4096) })) ∧
    (1 ≤ n.val → 4096 ≤ s.i.toNat + n.val - 1 → ∃ t, exec (.drw x y n) s = .next t ∧ FaultTaken s t
      { kind := .memoryOutOfBounds, pc := s.pc - 2#16, info := BitVec.ofNat 16 (max s.i.toNat 4096) })

/-- In a canonical memory a byte written reads back, every other byte is as before, and the memory is
canonical again (20_memory.md R40, R49; log entry 7). -/
def Obligations.MemoryReadsBackWhatWasWritten : Prop :=
  ∀ (s : State) (a : Nat) (b : Byte), s.mem.wf = true → a < 4096 →
    (s.writeByte a b).readByte a = b ∧ KeepsMemoryBut (· = a) s (s.writeByte a b) ∧
    (s.writeByte a b).mem.wf = true

/-- A fetch after Fx55 or Fx33, at whatever address it fetches, reads the memory those stores left: each of
its two bytes is the stored one where the store covers it, both, one or neither, and the old one elsewhere,
the first the high byte (20_memory.md R51, R44). A memory in canonical form is an invariant of the model
(log entry 7). -/
def Obligations.StoresAreSeenByTheNextFetch : Prop :=
  ∀ (x : RegIdx) (s : State), s.mem.wf = true → s.pc.toNat + 1 < 4096 →
    (s.i.toNat + x.val < 4096 → ∃ t w, exec (.ldMemVx x) s = .next t ∧ t.fetch = .ok w ∧
      w.toNat = s.byteAfterStoreRegs x s.pc.toNat * 256 + s.byteAfterStoreRegs x (s.pc.toNat + 1)) ∧
    (s.i.toNat + 2 < 4096 → ∃ t w, exec (.ldBVx x) s = .next t ∧ t.fetch = .ok w ∧
      w.toNat = s.byteAfterStoreDigits x s.pc.toNat * 256 + s.byteAfterStoreDigits x (s.pc.toNat + 1))

/-! ## Framebuffer -/

/-- 00E0: every pixel is 0, `dirty` is true, and nothing else changes; the cycle that executes it notifies
the renderer, whatever the screen was (44_display.md R111). -/
def Obligations.ClearScreenDarkensEveryPixel : Prop :=
  ∀ s : State,
    (∃ t, exec .cls s = .next t ∧ (∀ py px, t.pixel py px = false) ∧ t.dirty = true ∧
      OnlyScreen (fun _ => False) s t) ∧
    (s.fault = none → s.wait = none → s.fetch = .ok 0x00E0#16 → ∃ u, step s = .next u ∧
      (∀ py px, u.pixel py px = false) ∧ u.out.frameNotify = true)

/-- Dxyn with coordinates that are not `VF` and its rows in memory: every pixel is XORed with whether the
sprite covers it, the most significant bit of a row's byte being its leftmost pixel, `VF` is 1 exactly when
a covered pixel was lit and 0 otherwise, `dirty` is true, and nothing else changes (44_display.md R110,
R112, 20_memory.md R45). -/
def Obligations.DrawXorsTheCoveredPixels : Prop :=
  ∀ (x y : RegIdx) (n : Fin 16) (s : State), x ≠ vf → y ≠ vf → (n.val = 0 ∨ s.i.toNat + n.val ≤ 4096) →
    ∃ t, exec (.drw x y n) s = .next t ∧
      (∀ py px, t.pixel py px = xor (s.pixel py px) (s.spriteCovers x y n.val py px)) ∧
      (t.getV vf = 1#8 ↔ ∃ py px, s.spriteCovers x y n.val py px = true ∧ s.pixel py px = true) ∧
      (t.getV vf = 0#8 ∨ t.getV vf = 1#8) ∧ t.dirty = true ∧ OnlyScreen (· = vf) s t

/-- Dxyn for every `x` and `y`, `VF` among them, is the plot of its 8·n bits in order, the most significant
of each byte first, on a flag and a grid, a coordinate register that is `VF` being the flag as it stands
(44_display.md R110, R112 (e), 20_memory.md R45). The reads at
every pixel are the spec's decision D9 (log entry 11). -/
def Obligations.DrawRefinesThePlotBitByBit : Prop :=
  ∀ (x y : RegIdx) (n : Fin 16) (s : State), (n.val = 0 ∨ s.i.toNat + n.val ≤ 4096) →
    ∃ t, exec (.drw x y n) s = .next t ∧ t.dirty = true ∧ OnlyScreen (· = vf) s t ∧
      ∃ r, r = (List.range (8 * n.val)).foldl (s.plotOnGrid x y) (false, fun py px => s.pixel py px) ∧
      t.getV vf = (if r.1 then 1#8 else 0#8) ∧ ∀ py px, t.pixel py px = r.2 py px

/-- Drawing the same sprite twice restores every pixel; the first flag says whether the sprite covers a
pixel that was lit, the second whether it covers one that was dark (44_display.md R113). -/
def Obligations.DrawingTwiceRestoresTheScreen : Prop :=
  ∀ (x y : RegIdx) (n : Fin 16) (s : State), x ≠ vf → y ≠ vf → (n.val = 0 ∨ s.i.toNat + n.val ≤ 4096) →
    ∃ t u, exec (.drw x y n) s = .next t ∧ exec (.drw x y n) t = .next u ∧
      (∀ py px, u.pixel py px = s.pixel py px) ∧
      (t.getV vf = 1#8 ↔ ∃ py px, s.spriteCovers x y n.val py px = true ∧ s.pixel py px = true) ∧
      (u.getV vf = 1#8 ↔ ∃ py px, s.spriteCovers x y n.val py px = true ∧ s.pixel py px = false)

/-! ## Timers and keys -/

/-- Fx07, Fx15, Fx18: the delay timer's value is read, or a timer's value is written, its `active` bit and
the other timer unchanged, and nothing else changes (45_timer_key.md R114 to R116). -/
def Obligations.TimerInstructionsMoveTheValue : Prop :=
  ∀ (x : RegIdx) (s : State),
    (∃ t, exec (.ldVxDt x) s = .next t ∧ t.getV x = s.dt.value ∧ t.pc = s.pc ∧ OnlyRegs (· = x) s t) ∧
    (∃ t, exec (.ldDtVx x) s = .next t ∧ t.dt = { value := s.getV x, active := s.dt.active } ∧
      t.st = s.st ∧ OnlyTimers s t) ∧
    (∃ t, exec (.ldStVx x) s = .next t ∧ t.st = { value := s.getV x, active := s.st.active } ∧
      t.dt = s.dt ∧ OnlyTimers s t)

/-- Ex9E and ExA1: 2 is added to the advanced `pc` when the key numbered by the low nibble of `V[x]` is, or
is not, down in the cycle's key levels, and nothing else changes (45_timer_key.md R117, R118). -/
def Obligations.KeySkipsTestTheLowNibblesKey : Prop :=
  ∀ (x : RegIdx) (s : State),
    (∃ t, exec (.skp x) s = .next t ∧ OnlyPc s t ∧
      t.pc = if s.input.keys.getLsbD ((s.getV x).toNat % 16) then s.pc + 2#16 else s.pc) ∧
    (∃ t, exec (.sknp x) s = .next t ∧ OnlyPc s t ∧
      t.pc = if s.input.keys.getLsbD ((s.getV x).toNat % 16) then s.pc else s.pc + 2#16)

/-- Fx0A: with a key event of the cycle the key number goes to `V[x]` and nothing else changes; with none
the wait latch remembers `x` and nothing else changes (45_timer_key.md R119). The suspension is the
spec's decision D13 (log entry 12). -/
def Obligations.KeyWaitTakesTheKeyOrSuspends : Prop :=
  ∀ (x : RegIdx) (s : State),
    (∀ k, s.input.keyEvent = some k → ∃ t, exec (.ldVxK x) s = .next t ∧ (t.getV x).toNat = k.val ∧
      t.pc = s.pc ∧ OnlyRegs (· = x) s t) ∧
    (s.input.keyEvent = none → ∃ t, exec (.ldVxK x) s = .next t ∧ t.wait = some x ∧ t.fault = s.fault ∧
      KeepsRegs s t ∧ t.i = s.i ∧ t.pc = s.pc ∧ KeepsStack s t ∧ KeepsTimers s t ∧ KeepsScreen s t ∧
      KeepsMemory s t ∧ KeepsPorts s t)

/-- One tick, by cases: an active timer with a value above 0 counts down by one; an inactive timer with a
value above 0 counts down by one and runs the callback; an idle timer stays; and after every tick a timer
is active exactly when its value is above 0 (60_exceptions.md R137, R140). -/
def Obligations.TickFollowsTheThreeSteps : Prop :=
  ∀ t : Timer,
    (t.active = true → t.value ≠ 0#8 → t.tick.value = t.value - 1#8 ∧ t.tickFires = false) ∧
    (t.active = false → t.value ≠ 0#8 → t.tick.value = t.value - 1#8 ∧ t.tickFires = true) ∧
    (t.active = false → t.value = 0#8 → t.tick = t ∧ t.tickFires = false) ∧
    t.tick.settled

/-- The open case: a tick of an active timer whose value is 0 gives 255 and active, or 0 and inactive, the
same in every cycle of one machine (60_exceptions.md R138; the parameter is free, log entry 3). -/
def Obligations.ZeroedRunningTimerWrapsOrSaturates : Prop :=
  (∀ t : Timer, t.active = true → t.value = 0#8 →
    t.tick = { value := 255#8, active := true } ∧ t.tickFires = false) ∨
  (∀ t : Timer, t.active = true → t.value = 0#8 →
    t.tick = { value := 0#8, active := false } ∧ t.tickFires = false)

/-- From a settled timer, `n` ticks with no write take its value down by `n` to no less than 0, and fire no
callback on the way (60_exceptions.md R140). -/
def Obligations.SettledTimerCountsDownToZero : Prop :=
  ∀ (n : Nat) (t : Timer), t.settled →
    ((Timer.tick^[n] t).value.toNat = t.value.toNat - n) ∧ (Timer.tick^[n] t).settled ∧
    (Timer.tick^[n] t).tickFires = false

/-! ## The cycle -/

/-- A step of a core that is neither halted nor waiting, with an instruction in memory at `pc`, is the
execute phase of that instruction on the state with its outputs cleared and `pc` advanced by 2, then the
timer ticks and the frame flush unless the instruction faulted or suspended, then the use of the cycle's
inputs (40_cycle.md R69, R72 to R78). -/
def Obligations.StepRunsTheInstructionAtThePc : Prop :=
  ∀ (s u : State) (i : Instr), s.fault = none → s.wait = none → s.pc.toNat + 1 < 4096 →
    decode [s.readByte s.pc.toNat, s.readByte (s.pc.toNat + 1)] = .ok (i, []) →
    exec i { s with out := { beep := false, frameNotify := false, fault := none }, pc := s.pc + 2#16 } =
      .next u →
    step s = .next (State.nextInput
      (if u.fault.isSome || u.wait.isSome then u else u.tickTimers.flushFrame))

/-- Placing a word with `withFetchWord` makes the very next step run the instruction it decodes to, from
every state whose memory is canonical (the interface of log entry 6, the canonical memory of log
entry 7). -/
def Obligations.PlacedWordIsRunByTheNextStep : Prop :=
  ∀ (s u : State) (i : Instr) (w : Nat), s.mem.wf = true → decodeTableWord 16 w = some i →
    exec i (s.withFetchWord 16 w).clearOut.advance = .next u →
    step (s.withFetchWord 16 w) = .next u.afterExecute.nextInput

/-- Every step answers a next state: the cycle is total (40_cycle.md R68, the spec's own inference). -/
def Obligations.EveryCycleAnswersANextState : Prop :=
  ∀ s : State, ∃ t, step s = .next t

/-- A fetch beyond memory raises `MemoryOutOfBounds` with the lower address that does not exist and has no
other effect (40_cycle.md R72, 60_exceptions.md R125, R129). The entry is the spec's decision D10. -/
def Obligations.FetchBeyondMemoryFaults : Prop :=
  ∀ s : State, s.fault = none → s.wait = none → 4095 ≤ s.pc.toNat →
    ∃ t, step s = .next t.nextInput ∧ FaultTaken s.clearOut t
      { kind := .memoryOutOfBounds, pc := s.pc, info := if s.pc.toNat = 4095 then 4096#16 else s.pc }

/-- A fetched word that is no instruction raises `UnsupportedOpcode` with the word and its address, and has
no other effect (60_exceptions.md R122, R129). The entry is the spec's decision D10. -/
def Obligations.UnsupportedWordFaults : Prop :=
  ∀ (s : State) (w : Word), s.fault = none → s.wait = none → s.fetch = .ok w →
    (∀ i, decodeWord w ≠ .ok i) →
    ∃ t, step s = .next t.nextInput ∧ FaultTaken s.clearOut t
      { kind := .unsupportedOpcode, pc := s.pc, info := w }

/-- A halted cycle changes nothing of the core and outputs nothing (40_cycle.md R70, the spec's decision
D10, log entry 8). -/
def Obligations.HaltedCycleChangesNothing : Prop :=
  ∀ s : State, s.fault ≠ none →
    ∃ t, step s = .next t ∧ SameCore s t ∧ t.out = { beep := false, frameNotify := false, fault := none }

/-- A waiting cycle without a key event changes nothing and outputs nothing; with one it writes the key
number to the waiting register, ends the wait and ticks both timers, with no change of `pc`, `I`, the
stack, the screen, memory or any other register (40_cycle.md R71, the spec's decision D13, log entry 12). -/
def Obligations.WaitingCycleResumesOnAKeyEvent : Prop :=
  ∀ (s : State) (x : RegIdx), s.fault = none → s.wait = some x →
    (s.input.keyEvent = none → ∃ t, step s = .next t ∧ SameCore s t ∧
      t.out = { beep := false, frameNotify := false, fault := none }) ∧
    (∀ k, s.input.keyEvent = some k → ∃ t, step s = .next t ∧ (t.getV x).toNat = k.val ∧ t.wait = none ∧
      t.fault = none ∧ t.dt = s.dt.tick ∧ t.st = s.st.tick ∧ t.pc = s.pc ∧ t.i = s.i ∧
      KeepsRegsBut (· = x) s t ∧ KeepsStack s t ∧ KeepsMemory s t ∧
      (∀ py px, t.pixel py px = s.pixel py px) ∧ t.dirty = false)

/-- Faults are precise: a cycle that latches a fault records the `pc` it started with, outputs the record
and nothing else, and leaves everything but the latch as it was at the start of the cycle, the timers and
the advance of `pc` included (40_cycle.md R75, 60_exceptions.md R129; the spec's decision D10, log entry
8). -/
def Obligations.FaultsArePrecise : Prop :=
  ∀ (s t : State) (r : FaultRecord), s.fault = none → step s = .next t → t.fault = some r →
    r.pc = s.pc ∧ t.out = { beep := false, frameNotify := false, fault := some r } ∧
    KeepsRegs s t ∧ t.i = s.i ∧ t.pc = s.pc ∧ KeepsStack s t ∧ KeepsTimers s t ∧ KeepsScreen s t ∧
    KeepsMemory s t ∧ t.wait = s.wait

/-- Only these raise a fault, each under its condition, from a state that meets the invariant: a fetch at
0xFFF or beyond, a word that is no instruction, a call with a full stack, a return with an empty one, and
Dxyn, Fx33, Fx55 and Fx65 with a byte beyond memory, whose info is 0x1000 (60_exceptions.md R125,
R127). -/
def Obligations.OnlyTheListedConditionsFault : Prop :=
  ∀ (s t : State) (r : FaultRecord), s.Inv → s.fault = none → step s = .next t → t.fault = some r →
    s.wait = none ∧
    ((r.kind = .memoryOutOfBounds ∧ 4095 ≤ s.pc.toNat ∧
        r.info = if s.pc.toNat = 4095 then 4096#16 else s.pc) ∨
     (∃ w, s.fetch = .ok w ∧ (∀ i, decodeWord w ≠ .ok i) ∧ r.kind = .unsupportedOpcode ∧ r.info = w) ∨
     (∃ w i, s.fetch = .ok w ∧ decodeWord w = .ok i ∧
       (((∃ addr, i = .call addr) ∧ s.sp.val = 16 ∧ r.kind = .stackOverflow ∧ r.info = 0#16) ∨
        (i = .ret ∧ s.sp.val = 0 ∧ r.kind = .stackUnderflow ∧ r.info = 0#16) ∨
        ((∃ x y n, i = .drw x y n ∧ 1 ≤ n.val ∧ 4096 ≤ s.i.toNat + n.val - 1) ∧
          r.kind = .memoryOutOfBounds ∧ r.info = 0x1000#16) ∨
        ((∃ x, i = .ldBVx x ∧ 4096 ≤ s.i.toNat + 2) ∧
          r.kind = .memoryOutOfBounds ∧ r.info = 0x1000#16) ∨
        ((∃ x, (i = .ldMemVx x ∨ i = .ldVxMem x) ∧ 4096 ≤ s.i.toNat + x.val) ∧
          r.kind = .memoryOutOfBounds ∧ r.info = 0x1000#16))))

/-- The program-counter law: after a cycle that fetches, executes and does not fault, `pc` is what the law
says for the instruction, with the registers, the stack and the inputs as they were before the cycle
(40_cycle.md R79). -/
def Obligations.ProgramCounterLaw : Prop :=
  ∀ (s t : State) (w : Word) (i : Instr), s.fault = none → s.wait = none → s.fetch = .ok w →
    decodeWord w = .ok i → step s = .next t → t.fault = none → t.pc = s.pcAfter i

/-- The invariant of cycle boundaries is kept by every step, from every state that meets it (10_state.md
R32, R14, R16, R22; 60_exceptions.md R131, R140). That the memory is canonical and that a stack entry is at
most 0x1000 are parts of the invariant that the model adds (log entries 7 and 9). -/
def Obligations.StepKeepsTheInvariant : Prop :=
  ∀ s t : State, s.Inv → step s = .next t → t.Inv

/-- From a state that meets the invariant, `out.beep` is 1 exactly when the cycle executes Fx18 with `V[x]`
≥ 1 while the sound timer is idle (60_exceptions.md R139; the pulse is the spec's decision D26). -/
def Obligations.BeepExactlyWhenTheIdleSoundTimerIsSet : Prop :=
  ∀ s t : State, s.Inv → step s = .next t →
    (t.out.beep = true ↔ s.fault = none ∧ s.wait = none ∧ s.st.value = 0#8 ∧
      ∃ w x, s.fetch = .ok w ∧ decodeWord w = .ok (.ldStVx x) ∧ s.getV x ≠ 0#8)

/-- From a state that meets the invariant, `out.frame_notify` is 1 exactly when the cycle executes 00E0 or
a Dxyn that does not fault (60_exceptions.md R142; the flush is the spec's decision D18, log entry 14). -/
def Obligations.FrameNotifyExactlyAfterADraw : Prop :=
  ∀ s t : State, s.Inv → step s = .next t →
    (t.out.frameNotify = true ↔ s.fault = none ∧ s.wait = none ∧
      ∃ w i, s.fetch = .ok w ∧ decodeWord w = .ok i ∧
        (i = .cls ∨ ((∃ x y n, i = .drw x y n) ∧ t.fault = none)))

/-- A cycle's outcome depends on an input of the cycle only where the rule that names it runs: on the key
levels only for Ex9E and ExA1, on the key event only for Fx0A and a waiting cycle, on the random byte only
for Cxkk (40_cycle.md R68). -/
def Obligations.InputsAreReadOnlyByTheRulesThatNameThem : Prop :=
  ∀ (s : State) (a b : HostInput) (rest : List HostInput),
    (a.keyEvent = b.keyEvent ∨ s.fault ≠ none ∨ (s.wait = none ∧
      ∀ w x, s.fetch = .ok w → decodeWord w ≠ .ok (.ldVxK x))) →
    (a.keys = b.keys ∨ s.fault ≠ none ∨ s.wait ≠ none ∨ ∀ w x, s.fetch = .ok w →
      decodeWord w ≠ .ok (.skp x) ∧ decodeWord w ≠ .ok (.sknp x)) →
    (a.rand = b.rand ∨ s.fault ≠ none ∨ s.wait ≠ none ∨
      ∀ w x kk, s.fetch = .ok w → decodeWord w ≠ .ok (.rnd x kk)) →
    step { s with inputs := a :: rest } = step { s with inputs := b :: rest }

/-- A core that waits goes on waiting, with every piece of its state unchanged, through any number of
cycles without a key event, and the first cycle with one ends the wait (60_exceptions.md R145, 40_cycle.md
R71; the spec's decision D13). -/
def Obligations.WaitLastsUntilTheFirstKeyEvent : Prop :=
  ∀ (quiet : List HostInput) (e : HostInput) (rest : List HostInput) (k : KeyIdx) (x : RegIdx) (s : State),
    s.fault = none → s.wait = some x → s.inputs = quiet ++ e :: rest →
    (∀ a ∈ quiet, a.keyEvent = none) → e.keyEvent = some k →
    ∃ t u, stepsTo quiet.length s t ∧ SameCore s t ∧ step t = .next u ∧ u.wait = none ∧
      (u.getV x).toNat = k.val ∧ u.pc = s.pc ∧ u.dt = s.dt.tick ∧ u.st = s.st.tick

/-- Once a fault is latched, every piece of state the spec gives the core stays as it is through any number
of cycles (60_exceptions.md R130, R131; the spec's decision D10, log entry 8). -/
def Obligations.FaultStaysLatchedForEver : Prop :=
  ∀ (n : Nat) (s : State), s.fault ≠ none → ∃ t, stepsTo n s t ∧ SameCore s t

/-! ## Who writes what -/

/-- Any instruction leaves alone every register that is neither its destination nor, for 8xy4, 8xy5, 8xy6,
8xy7, 8xyE and Dxyn, `VF`: no other instruction writes `VF` as a flag (10_state.md R11, 42_load_alu.md
R90). -/
def Obligations.OtherRegistersAreNeverTouched : Prop :=
  ∀ (i : Instr) (r : RegIdx) (s t : State), exec i s = .next t → hasDest i r = false →
    (r = vf → writesFlag i = false) → t.getV r = s.getV r

/-- Each part of the state has its writers among the instructions and no others: `I` Annn, Fx1E and Fx29
(10_state.md R13); the stack 2nnn and 00EE (R17); timers Fx15 and Fx18 (R19, R20); the framebuffer and
`dirty` 00E0 and Dxyn (R21, R22); memory Fx33 and Fx55 (20_memory.md R48); the wait Fx0A (R24); and no
instruction touches the host's coming inputs. -/
def Obligations.EachPartOfTheStateHasItsWriters : Prop :=
  ∀ (i : Instr) (s t : State), exec i s = .next t →
    (t.i = s.i ∨ (∃ addr, i = .ldI addr) ∨ (∃ x, i = .ldIVx x) ∨ (∃ x, i = .ldFVx x)) ∧
    (KeepsStack s t ∨ (∃ addr, i = .call addr) ∨ i = .ret) ∧
    (t.dt = s.dt ∨ ∃ x, i = .ldDtVx x) ∧ (t.st = s.st ∨ ∃ x, i = .ldStVx x) ∧
    t.dt.active = s.dt.active ∧ t.st.active = s.st.active ∧
    (KeepsScreen s t ∨ i = .cls ∨ ∃ x y n, i = .drw x y n) ∧
    (KeepsMemory s t ∨ (∃ x, i = .ldBVx x) ∨ ∃ x, i = .ldMemVx x) ∧
    (t.wait = s.wait ∨ ∃ x, i = .ldVxK x) ∧ t.inputs = s.inputs ∧ t.ticks = s.ticks
end

