-- ==== Sys2Proof/Laws/Encoding.lean ====
section
/-! SUPPORT. Laws of the instruction word: the fields as quotients and remainders of its number, and the
fields of each format. -/

namespace Sys2Proof

theorem opField_eq (w : Word) : opField w = w.toNat / 4096 := by
  have := w.isLt
  simp [opField, BitVec.extractLsb'_toNat, Nat.shiftRight_eq_div_pow]; omega

theorem xField_val (w : Word) : (xField w).val = w.toNat / 256 % 16 := by
  simp [xField, Nat.shiftRight_eq_div_pow]

theorem yField_val (w : Word) : (yField w).val = w.toNat / 16 % 16 := by
  simp [yField, Nat.shiftRight_eq_div_pow]

theorem nField_val (w : Word) : (nField w).val = w.toNat % 16 := by
  simp [nField]

theorem kkField_toNat (w : Word) : (kkField w).toNat = w.toNat % 256 := by
  simp [kkField, BitVec.extractLsb'_toNat]

theorem addrField_toNat (w : Word) : (addrField w).toNat = w.toNat % 4096 := by
  simp [addrField, BitVec.extractLsb'_toNat]

theorem nibbleOf_toNat (k : Fin 16) : (nibbleOf k).toNat = k.val := by
  simp [nibbleOf]

theorem formatA_toNat (op : BitVec 4) (addr : Addr12) :
    (formatA op addr).toNat = op.toNat * 4096 + addr.toNat := by
  have := addr.isLt
  simp only [formatA, BitVec.toNat_append, Nat.shiftLeft_eq]
  rw [Nat.mul_comm, ← Nat.two_pow_add_eq_or_of_lt this]

theorem formatXK_toNat (op : BitVec 4) (x : RegIdx) (kk : Byte) :
    (formatXK op x kk).toNat = op.toNat * 4096 + x.val * 256 + kk.toNat := by
  have h1 := kk.isLt
  have h2 : (nibbleOf x).toNat < 2 ^ 4 := (nibbleOf x).isLt
  simp only [formatXK, BitVec.toNat_append, Nat.shiftLeft_eq]
  rw [Nat.mul_comm op.toNat, ← Nat.two_pow_add_eq_or_of_lt h2, Nat.mul_comm _ (2 ^ 8),
    ← Nat.two_pow_add_eq_or_of_lt h1, nibbleOf_toNat]
  omega

theorem formatXYN_toNat (op : BitVec 4) (x y n : Fin 16) :
    (formatXYN op x y n).toNat = op.toNat * 4096 + x.val * 256 + y.val * 16 + n.val := by
  have h1 : (nibbleOf n).toNat < 2 ^ 4 := (nibbleOf n).isLt
  have h2 : (nibbleOf x).toNat < 2 ^ 4 := (nibbleOf x).isLt
  have h3 : (nibbleOf y ++ nibbleOf n : BitVec 8).toNat < 2 ^ 8 := (nibbleOf y ++ nibbleOf n).isLt
  unfold formatXYN
  rw [BitVec.toNat_append, Nat.shiftLeft_eq, Nat.mul_comm _ (2 ^ 8), ← Nat.two_pow_add_eq_or_of_lt h3]
  simp only [BitVec.toNat_append, Nat.shiftLeft_eq]
  rw [Nat.mul_comm op.toNat, ← Nat.two_pow_add_eq_or_of_lt h2, Nat.mul_comm (nibbleOf y).toNat,
    ← Nat.two_pow_add_eq_or_of_lt h1, nibbleOf_toNat, nibbleOf_toNat, nibbleOf_toNat]
  omega

/-- The two stored bytes of a word give it back (20_memory.md R44). -/
theorem wordOfBytes_highByte_lowByte (w : Word) : wordOfBytes (highByte w) (lowByte w) = w := by
  apply BitVec.eq_of_toNat_eq
  have h : (lowByte w).toNat < 2 ^ 8 := (lowByte w).isLt
  have hw := w.isLt
  unfold wordOfBytes
  rw [BitVec.toNat_append, Nat.shiftLeft_eq, Nat.mul_comm, ← Nat.two_pow_add_eq_or_of_lt h]
  simp only [highByte, lowByte, BitVec.extractLsb'_toNat, Nat.shiftRight_eq_div_pow]
  omega

/-- A word as the number of its two bytes, the first 256 times (20_memory.md R44). -/
theorem wordOfBytes_toNat (hi lo : Byte) : (wordOfBytes hi lo).toNat = hi.toNat * 256 + lo.toNat := by
  have h := lo.isLt
  unfold wordOfBytes
  rw [BitVec.toNat_append, Nat.shiftLeft_eq, Nat.mul_comm, ← Nat.two_pow_add_eq_or_of_lt h, Nat.mul_comm]

theorem highByte_toNat (w : Word) : (highByte w).toNat = w.toNat / 256 := by
  have := w.isLt
  simp [highByte, BitVec.extractLsb'_toNat, Nat.shiftRight_eq_div_pow]; omega

theorem lowByte_toNat (w : Word) : (lowByte w).toNat = w.toNat % 256 := by
  simp [lowByte, BitVec.extractLsb'_toNat]

/-- A word that is an instruction decodes from its bytes, whatever follows them. -/
theorem decode_bytes (w : Word) (rest : List Byte) :
    decode (highByte w :: lowByte w :: rest) =
      match decodeWord w with
      | .ok i => .ok (i, rest)
      | .error e => .error e := by
  cases h : decodeWord w <;> simp [decode, wordOfBytes_highByte_lowByte, h]

end Sys2Proof
end

