-- ==== Sys2Proof/Laws/Memory.lean ====
section
/-! SUPPORT. Laws of the memory: a read after a write, every operation keeps the canonical form, and
equal contents are equal lists. -/

namespace Sys2Proof.Machine

theorem Memory.read_cell_append (a : Nat) (v : Byte) (m : Memory) (q : Nat)
    (h : Memory.read m a = unlistedByte a) :
    Memory.read (Memory.cell a v ++ m) q = if q = a then v else Memory.read m q := by
  unfold Memory.cell
  split
  · rename_i hv
    by_cases hq : q = a
    · subst hq; simp [hv, h]
    · simp [hq]
  · simp [Memory.read]

theorem Memory.wfFrom_mono {lo hi : Nat} (h : lo ≤ hi) :
    ∀ {m : Memory}, Memory.wfFrom hi m = true → Memory.wfFrom lo m = true
  | [], _ => rfl
  | (a, v) :: m, hm => by
    simp only [Memory.wfFrom, Bool.and_eq_true, decide_eq_true_eq] at hm ⊢
    exact ⟨⟨⟨by omega, hm.1.1.2⟩, hm.1.2⟩, hm.2⟩

/-- Below its first possible address a memory lists nothing. -/
theorem Memory.read_of_lt {lo : Nat} :
    ∀ {m : Memory}, Memory.wfFrom lo m = true → ∀ {a : Nat}, a < lo → Memory.read m a = unlistedByte a
  | [], _, _, _ => rfl
  | (b, v) :: m, hm, a, ha => by
    simp only [Memory.wfFrom, Bool.and_eq_true, decide_eq_true_eq] at hm
    have hb : a ≠ b := by omega
    simp only [Memory.read, if_neg hb]
    exact Memory.read_of_lt hm.2 (by omega)

theorem Memory.wfFrom_cell_append {a lo : Nat} {v : Byte} {m : Memory} (hlo : lo ≤ a)
    (ha : a < Config.memSize) (hm : Memory.wfFrom (a + 1) m = true) :
    Memory.wfFrom lo (Memory.cell a v ++ m) = true := by
  unfold Memory.cell
  split
  · exact Memory.wfFrom_mono (by omega) hm
  · rename_i hv
    simp [Memory.wfFrom, hlo, ha, hv, hm]

theorem Memory.wfFrom_write {a : Nat} {v : Byte} (ha : a < Config.memSize) :
    ∀ {m : Memory} {lo : Nat}, lo ≤ a → Memory.wfFrom lo m = true →
      Memory.wfFrom lo (Memory.write m a v) = true
  | [], lo, hlo, _ => by
    have := Memory.wfFrom_cell_append (v := v) (m := []) hlo ha rfl
    simpa [Memory.write] using this
  | (b, u) :: m, lo, hlo, hm => by
    have hm' := hm
    simp only [Memory.wfFrom, Bool.and_eq_true, decide_eq_true_eq] at hm
    obtain ⟨⟨⟨hb, hbs⟩, hu⟩, ht⟩ := hm
    unfold Memory.write
    split
    · refine Memory.wfFrom_cell_append hlo ha ?_
      simp [Memory.wfFrom, hbs, hu, ht]; omega
    · split
      · rename_i _ hab
        subst hab
        exact Memory.wfFrom_cell_append hlo ha ht
      · simp [Memory.wfFrom, hb, hbs, hu]
        exact Memory.wfFrom_write ha (by omega) ht

/-- Every write to an address that exists keeps the canonical form. -/
theorem Memory.wf_write {m : Memory} {a : Nat} {v : Byte} (ha : a < Config.memSize) (hm : m.wf = true) :
    (m.write a v).wf = true := Memory.wfFrom_write ha (Nat.zero_le _) hm

theorem Memory.wfFrom_read_write {a : Nat} {v : Byte} :
    ∀ {m : Memory} {lo : Nat}, Memory.wfFrom lo m = true → ∀ q : Nat,
      Memory.read (Memory.write m a v) q = if q = a then v else Memory.read m q
  | [], _, _, q => by
    have := Memory.read_cell_append a v [] q rfl
    simpa [Memory.write] using this
  | (b, u) :: m, lo, hm, q => by
    have hm' := hm
    simp only [Memory.wfFrom, Bool.and_eq_true, decide_eq_true_eq] at hm
    obtain ⟨⟨⟨hb, hbs⟩, hu⟩, ht⟩ := hm
    unfold Memory.write
    split
    · rename_i hab
      refine Memory.read_cell_append a v _ q ?_
      have : a ≠ b := by omega
      simp only [Memory.read, if_neg this]
      exact Memory.read_of_lt ht (by omega)
    · split
      · rename_i _ hab
        subst hab
        rw [Memory.read_cell_append a v m q (Memory.read_of_lt ht (by omega))]
        by_cases hq : q = a <;> simp [Memory.read, hq]
      · rename_i h1 h2
        simp only [Memory.read, Memory.wfFrom_read_write ht q]
        by_cases hqb : q = b
        · have : q ≠ a := by omega
          simp [hqb, Ne.symm (Ne.intro h2)]
        · simp [hqb]

/-- A read after a write to a canonical memory: the byte written at its address, every other byte as
before. -/
theorem Memory.read_write {m : Memory} (hm : m.wf = true) (a : Nat) (v : Byte) (q : Nat) :
    (m.write a v).read q = if q = a then v else m.read q := Memory.wfFrom_read_write hm q

/-- Loading bytes into the memory keeps the canonical form. -/
theorem Memory.wf_load : ∀ {vs : List Byte} {m : Memory} {a : Nat}, m.wf = true →
    a + vs.length ≤ Config.memSize → (m.load a vs).wf = true
  | [], _, _, hm, _ => hm
  | v :: vs, m, a, hm, h => by
    simp only [List.length_cons] at h
    exact Memory.wf_load (vs := vs) (Memory.wf_write (by omega) hm) (by omega)

/-- What loaded bytes read as: byte `q − a` of the list at the addresses it covers, elsewhere what was
there. -/
theorem Memory.read_load : ∀ {vs : List Byte} {m : Memory} {a : Nat}, m.wf = true →
    a + vs.length ≤ Config.memSize → ∀ q : Nat,
    (m.load a vs).read q = if h : a ≤ q ∧ q - a < vs.length then vs[q - a] else m.read q
  | [], _, _, _, _, q => by simp [Memory.load]
  | v :: vs, m, a, hm, h, q => by
    simp only [List.length_cons] at h
    have hw := Memory.wf_write (v := v) (show a < Config.memSize by omega) hm
    rw [Memory.load, Memory.read_load hw (by omega) q, Memory.read_write hm]
    by_cases h1 : q = a
    · subst h1; simp
    · by_cases h2 : a + 1 ≤ q ∧ q - (a + 1) < vs.length
      · have h3 : a ≤ q ∧ q - a < (v :: vs).length := by simp; omega
        have h4 : q - a = (q - (a + 1)) + 1 := by omega
        rw [dif_pos h2, dif_pos h3]
        simp [h4]
      · have h3 : ¬ (a ≤ q ∧ q - a < (v :: vs).length) := by simp; omega
        rw [dif_neg h2, dif_neg h3, if_neg h1]

theorem Memory.wfFrom_ext : ∀ {m n : Memory} {lo : Nat}, Memory.wfFrom lo m = true →
    Memory.wfFrom lo n = true → (∀ q, Memory.read m q = Memory.read n q) → m = n
  | [], [], _, _, _, _ => rfl
  | [], (b, u) :: n, lo, _, hn, h => by
    simp only [Memory.wfFrom, Bool.and_eq_true, decide_eq_true_eq] at hn
    exact absurd (by simpa [Memory.read] using h b) (Ne.symm hn.1.2)
  | (b, u) :: m, [], lo, hm, _, h => by
    simp only [Memory.wfFrom, Bool.and_eq_true, decide_eq_true_eq] at hm
    exact absurd (by simpa [Memory.read] using h b) hm.1.2
  | (a, v) :: m, (b, u) :: n, lo, hm, hn, h => by
    simp only [Memory.wfFrom, Bool.and_eq_true, decide_eq_true_eq] at hm hn
    obtain hlt | heq | hgt := Nat.lt_trichotomy a b
    · have := h a
      simp only [Memory.read, if_pos, if_neg (show a ≠ b by omega)] at this
      rw [Memory.read_of_lt hn.2 (by omega)] at this
      exact absurd this hm.1.2
    · subst heq
      have hv : v = u := by simpa [Memory.read] using h a
      subst hv
      have : m = n := Memory.wfFrom_ext hm.2 hn.2 fun q => by
        by_cases hq : q = a
        · subst hq; rw [Memory.read_of_lt hm.2 (by omega), Memory.read_of_lt hn.2 (by omega)]
        · simpa [Memory.read, hq] using h q
      rw [this]
    · have := h b
      simp only [Memory.read, if_pos, if_neg (show b ≠ a by omega)] at this
      rw [Memory.read_of_lt hm.2 (by omega)] at this
      exact absurd this.symm hn.1.2

/-- Canonical memories with the same contents are the same list. -/
theorem Memory.ext_of_wf {m n : Memory} (hm : m.wf = true) (hn : n.wf = true)
    (h : ∀ q, m.read q = n.read q) : m = n := Memory.wfFrom_ext hm hn h

end Sys2Proof.Machine
end

