-- ==== Sys2Proof/Laws/State.lean ====
section
/-! SUPPORT. Laws of the state record: one lemma for each field under each named update, and for each
accessor under the updates that do not touch what it reads. -/

namespace Sys2Proof.Machine

variable (s : State)

/-! ### `setV` -/

@[simp] theorem State.setV_i (r : RegIdx) (b : Byte) : (s.setV r b).i = s.i := rfl
@[simp] theorem State.setV_pc (r : RegIdx) (b : Byte) : (s.setV r b).pc = s.pc := rfl
@[simp] theorem State.setV_stack (r : RegIdx) (b : Byte) : (s.setV r b).stack = s.stack := rfl
@[simp] theorem State.setV_sp (r : RegIdx) (b : Byte) : (s.setV r b).sp = s.sp := rfl
@[simp] theorem State.setV_dt (r : RegIdx) (b : Byte) : (s.setV r b).dt = s.dt := rfl
@[simp] theorem State.setV_st (r : RegIdx) (b : Byte) : (s.setV r b).st = s.st := rfl
@[simp] theorem State.setV_pixels (r : RegIdx) (b : Byte) : (s.setV r b).pixels = s.pixels := rfl
@[simp] theorem State.setV_dirty (r : RegIdx) (b : Byte) : (s.setV r b).dirty = s.dirty := rfl
@[simp] theorem State.setV_mem (r : RegIdx) (b : Byte) : (s.setV r b).mem = s.mem := rfl
@[simp] theorem State.setV_wait (r : RegIdx) (b : Byte) : (s.setV r b).wait = s.wait := rfl
@[simp] theorem State.setV_fault (r : RegIdx) (b : Byte) : (s.setV r b).fault = s.fault := rfl
@[simp] theorem State.setV_inputs (r : RegIdx) (b : Byte) : (s.setV r b).inputs = s.inputs := rfl
@[simp] theorem State.setV_ticks (r : RegIdx) (b : Byte) : (s.setV r b).ticks = s.ticks := rfl
@[simp] theorem State.setV_out (r : RegIdx) (b : Byte) : (s.setV r b).out = s.out := rfl
@[simp] theorem State.setV_stackEntry (r : RegIdx) (b : Byte) (k : Fin 16) : (s.setV r b).stackEntry k = s.stackEntry k := rfl
@[simp] theorem State.setV_pixel (r : RegIdx) (b : Byte) (qy : Fin 32) (qx : Fin 64) : (s.setV r b).pixel qy qx = s.pixel qy qx := rfl
@[simp] theorem State.setV_readByte (r : RegIdx) (b : Byte) (q : Nat) : (s.setV r b).readByte q = s.readByte q := rfl

/-! ### `setFlag` -/

@[simp] theorem State.setFlag_i (b : Byte) : (s.setFlag b).i = s.i := rfl
@[simp] theorem State.setFlag_pc (b : Byte) : (s.setFlag b).pc = s.pc := rfl
@[simp] theorem State.setFlag_stack (b : Byte) : (s.setFlag b).stack = s.stack := rfl
@[simp] theorem State.setFlag_sp (b : Byte) : (s.setFlag b).sp = s.sp := rfl
@[simp] theorem State.setFlag_dt (b : Byte) : (s.setFlag b).dt = s.dt := rfl
@[simp] theorem State.setFlag_st (b : Byte) : (s.setFlag b).st = s.st := rfl
@[simp] theorem State.setFlag_pixels (b : Byte) : (s.setFlag b).pixels = s.pixels := rfl
@[simp] theorem State.setFlag_dirty (b : Byte) : (s.setFlag b).dirty = s.dirty := rfl
@[simp] theorem State.setFlag_mem (b : Byte) : (s.setFlag b).mem = s.mem := rfl
@[simp] theorem State.setFlag_wait (b : Byte) : (s.setFlag b).wait = s.wait := rfl
@[simp] theorem State.setFlag_fault (b : Byte) : (s.setFlag b).fault = s.fault := rfl
@[simp] theorem State.setFlag_inputs (b : Byte) : (s.setFlag b).inputs = s.inputs := rfl
@[simp] theorem State.setFlag_ticks (b : Byte) : (s.setFlag b).ticks = s.ticks := rfl
@[simp] theorem State.setFlag_out (b : Byte) : (s.setFlag b).out = s.out := rfl
@[simp] theorem State.setFlag_stackEntry (b : Byte) (k : Fin 16) : (s.setFlag b).stackEntry k = s.stackEntry k := rfl
@[simp] theorem State.setFlag_pixel (b : Byte) (qy : Fin 32) (qx : Fin 64) : (s.setFlag b).pixel qy qx = s.pixel qy qx := rfl
@[simp] theorem State.setFlag_readByte (b : Byte) (q : Nat) : (s.setFlag b).readByte q = s.readByte q := rfl

/-! ### `setI` -/

@[simp] theorem State.setI_v (w : Word) : (s.setI w).v = s.v := rfl
@[simp] theorem State.setI_i (w : Word) : (s.setI w).i = w := rfl
@[simp] theorem State.setI_pc (w : Word) : (s.setI w).pc = s.pc := rfl
@[simp] theorem State.setI_stack (w : Word) : (s.setI w).stack = s.stack := rfl
@[simp] theorem State.setI_sp (w : Word) : (s.setI w).sp = s.sp := rfl
@[simp] theorem State.setI_dt (w : Word) : (s.setI w).dt = s.dt := rfl
@[simp] theorem State.setI_st (w : Word) : (s.setI w).st = s.st := rfl
@[simp] theorem State.setI_pixels (w : Word) : (s.setI w).pixels = s.pixels := rfl
@[simp] theorem State.setI_dirty (w : Word) : (s.setI w).dirty = s.dirty := rfl
@[simp] theorem State.setI_mem (w : Word) : (s.setI w).mem = s.mem := rfl
@[simp] theorem State.setI_wait (w : Word) : (s.setI w).wait = s.wait := rfl
@[simp] theorem State.setI_fault (w : Word) : (s.setI w).fault = s.fault := rfl
@[simp] theorem State.setI_inputs (w : Word) : (s.setI w).inputs = s.inputs := rfl
@[simp] theorem State.setI_ticks (w : Word) : (s.setI w).ticks = s.ticks := rfl
@[simp] theorem State.setI_out (w : Word) : (s.setI w).out = s.out := rfl
@[simp] theorem State.setI_getV (w : Word) (q : RegIdx) : (s.setI w).getV q = s.getV q := rfl
@[simp] theorem State.setI_stackEntry (w : Word) (k : Fin 16) : (s.setI w).stackEntry k = s.stackEntry k := rfl
@[simp] theorem State.setI_pixel (w : Word) (qy : Fin 32) (qx : Fin 64) : (s.setI w).pixel qy qx = s.pixel qy qx := rfl
@[simp] theorem State.setI_readByte (w : Word) (q : Nat) : (s.setI w).readByte q = s.readByte q := rfl

/-! ### `setPc` -/

@[simp] theorem State.setPc_v (w : Word) : (s.setPc w).v = s.v := rfl
@[simp] theorem State.setPc_i (w : Word) : (s.setPc w).i = s.i := rfl
@[simp] theorem State.setPc_pc (w : Word) : (s.setPc w).pc = w := rfl
@[simp] theorem State.setPc_stack (w : Word) : (s.setPc w).stack = s.stack := rfl
@[simp] theorem State.setPc_sp (w : Word) : (s.setPc w).sp = s.sp := rfl
@[simp] theorem State.setPc_dt (w : Word) : (s.setPc w).dt = s.dt := rfl
@[simp] theorem State.setPc_st (w : Word) : (s.setPc w).st = s.st := rfl
@[simp] theorem State.setPc_pixels (w : Word) : (s.setPc w).pixels = s.pixels := rfl
@[simp] theorem State.setPc_dirty (w : Word) : (s.setPc w).dirty = s.dirty := rfl
@[simp] theorem State.setPc_mem (w : Word) : (s.setPc w).mem = s.mem := rfl
@[simp] theorem State.setPc_wait (w : Word) : (s.setPc w).wait = s.wait := rfl
@[simp] theorem State.setPc_fault (w : Word) : (s.setPc w).fault = s.fault := rfl
@[simp] theorem State.setPc_inputs (w : Word) : (s.setPc w).inputs = s.inputs := rfl
@[simp] theorem State.setPc_ticks (w : Word) : (s.setPc w).ticks = s.ticks := rfl
@[simp] theorem State.setPc_out (w : Word) : (s.setPc w).out = s.out := rfl
@[simp] theorem State.setPc_getV (w : Word) (q : RegIdx) : (s.setPc w).getV q = s.getV q := rfl
@[simp] theorem State.setPc_stackEntry (w : Word) (k : Fin 16) : (s.setPc w).stackEntry k = s.stackEntry k := rfl
@[simp] theorem State.setPc_pixel (w : Word) (qy : Fin 32) (qx : Fin 64) : (s.setPc w).pixel qy qx = s.pixel qy qx := rfl
@[simp] theorem State.setPc_readByte (w : Word) (q : Nat) : (s.setPc w).readByte q = s.readByte q := rfl

/-! ### `advance` -/

@[simp] theorem State.advance_v : s.advance.v = s.v := rfl
@[simp] theorem State.advance_i : s.advance.i = s.i := rfl
@[simp] theorem State.advance_pc : s.advance.pc = s.pc + 2#16 := rfl
@[simp] theorem State.advance_stack : s.advance.stack = s.stack := rfl
@[simp] theorem State.advance_sp : s.advance.sp = s.sp := rfl
@[simp] theorem State.advance_dt : s.advance.dt = s.dt := rfl
@[simp] theorem State.advance_st : s.advance.st = s.st := rfl
@[simp] theorem State.advance_pixels : s.advance.pixels = s.pixels := rfl
@[simp] theorem State.advance_dirty : s.advance.dirty = s.dirty := rfl
@[simp] theorem State.advance_mem : s.advance.mem = s.mem := rfl
@[simp] theorem State.advance_wait : s.advance.wait = s.wait := rfl
@[simp] theorem State.advance_fault : s.advance.fault = s.fault := rfl
@[simp] theorem State.advance_inputs : s.advance.inputs = s.inputs := rfl
@[simp] theorem State.advance_ticks : s.advance.ticks = s.ticks := rfl
@[simp] theorem State.advance_out : s.advance.out = s.out := rfl
@[simp] theorem State.advance_getV (q : RegIdx) : s.advance.getV q = s.getV q := rfl
@[simp] theorem State.advance_stackEntry (k : Fin 16) : s.advance.stackEntry k = s.stackEntry k := rfl
@[simp] theorem State.advance_pixel (qy : Fin 32) (qx : Fin 64) : s.advance.pixel qy qx = s.pixel qy qx := rfl
@[simp] theorem State.advance_readByte (q : Nat) : s.advance.readByte q = s.readByte q := rfl

/-! ### `skip` -/

@[simp] theorem State.skip_v : s.skip.v = s.v := rfl
@[simp] theorem State.skip_i : s.skip.i = s.i := rfl
@[simp] theorem State.skip_pc : s.skip.pc = s.pc + 2#16 := rfl
@[simp] theorem State.skip_stack : s.skip.stack = s.stack := rfl
@[simp] theorem State.skip_sp : s.skip.sp = s.sp := rfl
@[simp] theorem State.skip_dt : s.skip.dt = s.dt := rfl
@[simp] theorem State.skip_st : s.skip.st = s.st := rfl
@[simp] theorem State.skip_pixels : s.skip.pixels = s.pixels := rfl
@[simp] theorem State.skip_dirty : s.skip.dirty = s.dirty := rfl
@[simp] theorem State.skip_mem : s.skip.mem = s.mem := rfl
@[simp] theorem State.skip_wait : s.skip.wait = s.wait := rfl
@[simp] theorem State.skip_fault : s.skip.fault = s.fault := rfl
@[simp] theorem State.skip_inputs : s.skip.inputs = s.inputs := rfl
@[simp] theorem State.skip_ticks : s.skip.ticks = s.ticks := rfl
@[simp] theorem State.skip_out : s.skip.out = s.out := rfl
@[simp] theorem State.skip_getV (q : RegIdx) : s.skip.getV q = s.getV q := rfl
@[simp] theorem State.skip_stackEntry (k : Fin 16) : s.skip.stackEntry k = s.stackEntry k := rfl
@[simp] theorem State.skip_pixel (qy : Fin 32) (qx : Fin 64) : s.skip.pixel qy qx = s.pixel qy qx := rfl
@[simp] theorem State.skip_readByte (q : Nat) : s.skip.readByte q = s.readByte q := rfl

/-! ### `skipIf` -/

@[simp] theorem State.skipIf_v (c : Bool) : (s.skipIf c).v = s.v := by cases c <;> rfl
@[simp] theorem State.skipIf_i (c : Bool) : (s.skipIf c).i = s.i := by cases c <;> rfl
@[simp] theorem State.skipIf_stack (c : Bool) : (s.skipIf c).stack = s.stack := by cases c <;> rfl
@[simp] theorem State.skipIf_sp (c : Bool) : (s.skipIf c).sp = s.sp := by cases c <;> rfl
@[simp] theorem State.skipIf_dt (c : Bool) : (s.skipIf c).dt = s.dt := by cases c <;> rfl
@[simp] theorem State.skipIf_st (c : Bool) : (s.skipIf c).st = s.st := by cases c <;> rfl
@[simp] theorem State.skipIf_pixels (c : Bool) : (s.skipIf c).pixels = s.pixels := by cases c <;> rfl
@[simp] theorem State.skipIf_dirty (c : Bool) : (s.skipIf c).dirty = s.dirty := by cases c <;> rfl
@[simp] theorem State.skipIf_mem (c : Bool) : (s.skipIf c).mem = s.mem := by cases c <;> rfl
@[simp] theorem State.skipIf_wait (c : Bool) : (s.skipIf c).wait = s.wait := by cases c <;> rfl
@[simp] theorem State.skipIf_fault (c : Bool) : (s.skipIf c).fault = s.fault := by cases c <;> rfl
@[simp] theorem State.skipIf_inputs (c : Bool) : (s.skipIf c).inputs = s.inputs := by cases c <;> rfl
@[simp] theorem State.skipIf_ticks (c : Bool) : (s.skipIf c).ticks = s.ticks := by cases c <;> rfl
@[simp] theorem State.skipIf_out (c : Bool) : (s.skipIf c).out = s.out := by cases c <;> rfl
@[simp] theorem State.skipIf_getV (c : Bool) (q : RegIdx) : (s.skipIf c).getV q = s.getV q := by simp [State.getV]
@[simp] theorem State.skipIf_stackEntry (c : Bool) (k : Fin 16) : (s.skipIf c).stackEntry k = s.stackEntry k := by simp [State.stackEntry]
@[simp] theorem State.skipIf_pixel (c : Bool) (qy : Fin 32) (qx : Fin 64) : (s.skipIf c).pixel qy qx = s.pixel qy qx := by simp [State.pixel]
@[simp] theorem State.skipIf_readByte (c : Bool) (q : Nat) : (s.skipIf c).readByte q = s.readByte q := by simp [State.readByte]

/-! ### `push` -/

@[simp] theorem State.push_v (w : Word) : (s.push w).v = s.v := by unfold State.push; split <;> rfl
@[simp] theorem State.push_i (w : Word) : (s.push w).i = s.i := by unfold State.push; split <;> rfl
@[simp] theorem State.push_pc (w : Word) : (s.push w).pc = s.pc := by unfold State.push; split <;> rfl
@[simp] theorem State.push_dt (w : Word) : (s.push w).dt = s.dt := by unfold State.push; split <;> rfl
@[simp] theorem State.push_st (w : Word) : (s.push w).st = s.st := by unfold State.push; split <;> rfl
@[simp] theorem State.push_pixels (w : Word) : (s.push w).pixels = s.pixels := by unfold State.push; split <;> rfl
@[simp] theorem State.push_dirty (w : Word) : (s.push w).dirty = s.dirty := by unfold State.push; split <;> rfl
@[simp] theorem State.push_mem (w : Word) : (s.push w).mem = s.mem := by unfold State.push; split <;> rfl
@[simp] theorem State.push_wait (w : Word) : (s.push w).wait = s.wait := by unfold State.push; split <;> rfl
@[simp] theorem State.push_fault (w : Word) : (s.push w).fault = s.fault := by unfold State.push; split <;> rfl
@[simp] theorem State.push_inputs (w : Word) : (s.push w).inputs = s.inputs := by unfold State.push; split <;> rfl
@[simp] theorem State.push_ticks (w : Word) : (s.push w).ticks = s.ticks := by unfold State.push; split <;> rfl
@[simp] theorem State.push_out (w : Word) : (s.push w).out = s.out := by unfold State.push; split <;> rfl
@[simp] theorem State.push_getV (w : Word) (q : RegIdx) : (s.push w).getV q = s.getV q := by simp [State.getV]
@[simp] theorem State.push_pixel (w : Word) (qy : Fin 32) (qx : Fin 64) : (s.push w).pixel qy qx = s.pixel qy qx := by simp [State.pixel]
@[simp] theorem State.push_readByte (w : Word) (q : Nat) : (s.push w).readByte q = s.readByte q := by simp [State.readByte]

/-! ### `pop` -/

@[simp] theorem State.pop_v : s.pop.v = s.v := rfl
@[simp] theorem State.pop_i : s.pop.i = s.i := rfl
@[simp] theorem State.pop_pc : s.pop.pc = s.pc := rfl
@[simp] theorem State.pop_stack : s.pop.stack = s.stack := rfl
@[simp] theorem State.pop_dt : s.pop.dt = s.dt := rfl
@[simp] theorem State.pop_st : s.pop.st = s.st := rfl
@[simp] theorem State.pop_pixels : s.pop.pixels = s.pixels := rfl
@[simp] theorem State.pop_dirty : s.pop.dirty = s.dirty := rfl
@[simp] theorem State.pop_mem : s.pop.mem = s.mem := rfl
@[simp] theorem State.pop_wait : s.pop.wait = s.wait := rfl
@[simp] theorem State.pop_fault : s.pop.fault = s.fault := rfl
@[simp] theorem State.pop_inputs : s.pop.inputs = s.inputs := rfl
@[simp] theorem State.pop_ticks : s.pop.ticks = s.ticks := rfl
@[simp] theorem State.pop_out : s.pop.out = s.out := rfl
@[simp] theorem State.pop_getV (q : RegIdx) : s.pop.getV q = s.getV q := rfl
@[simp] theorem State.pop_stackEntry (k : Fin 16) : s.pop.stackEntry k = s.stackEntry k := rfl
@[simp] theorem State.pop_pixel (qy : Fin 32) (qx : Fin 64) : s.pop.pixel qy qx = s.pixel qy qx := rfl
@[simp] theorem State.pop_readByte (q : Nat) : s.pop.readByte q = s.readByte q := rfl

/-! ### `writeByte` -/

@[simp] theorem State.writeByte_v (a : Nat) (b : Byte) : (s.writeByte a b).v = s.v := by unfold State.writeByte; split <;> rfl
@[simp] theorem State.writeByte_i (a : Nat) (b : Byte) : (s.writeByte a b).i = s.i := by unfold State.writeByte; split <;> rfl
@[simp] theorem State.writeByte_pc (a : Nat) (b : Byte) : (s.writeByte a b).pc = s.pc := by unfold State.writeByte; split <;> rfl
@[simp] theorem State.writeByte_stack (a : Nat) (b : Byte) : (s.writeByte a b).stack = s.stack := by unfold State.writeByte; split <;> rfl
@[simp] theorem State.writeByte_sp (a : Nat) (b : Byte) : (s.writeByte a b).sp = s.sp := by unfold State.writeByte; split <;> rfl
@[simp] theorem State.writeByte_dt (a : Nat) (b : Byte) : (s.writeByte a b).dt = s.dt := by unfold State.writeByte; split <;> rfl
@[simp] theorem State.writeByte_st (a : Nat) (b : Byte) : (s.writeByte a b).st = s.st := by unfold State.writeByte; split <;> rfl
@[simp] theorem State.writeByte_pixels (a : Nat) (b : Byte) : (s.writeByte a b).pixels = s.pixels := by unfold State.writeByte; split <;> rfl
@[simp] theorem State.writeByte_dirty (a : Nat) (b : Byte) : (s.writeByte a b).dirty = s.dirty := by unfold State.writeByte; split <;> rfl
@[simp] theorem State.writeByte_wait (a : Nat) (b : Byte) : (s.writeByte a b).wait = s.wait := by unfold State.writeByte; split <;> rfl
@[simp] theorem State.writeByte_fault (a : Nat) (b : Byte) : (s.writeByte a b).fault = s.fault := by unfold State.writeByte; split <;> rfl
@[simp] theorem State.writeByte_inputs (a : Nat) (b : Byte) : (s.writeByte a b).inputs = s.inputs := by unfold State.writeByte; split <;> rfl
@[simp] theorem State.writeByte_ticks (a : Nat) (b : Byte) : (s.writeByte a b).ticks = s.ticks := by unfold State.writeByte; split <;> rfl
@[simp] theorem State.writeByte_out (a : Nat) (b : Byte) : (s.writeByte a b).out = s.out := by unfold State.writeByte; split <;> rfl
@[simp] theorem State.writeByte_getV (a : Nat) (b : Byte) (q : RegIdx) : (s.writeByte a b).getV q = s.getV q := by simp [State.getV]
@[simp] theorem State.writeByte_stackEntry (a : Nat) (b : Byte) (k : Fin 16) : (s.writeByte a b).stackEntry k = s.stackEntry k := by simp [State.stackEntry]
@[simp] theorem State.writeByte_pixel (a : Nat) (b : Byte) (qy : Fin 32) (qx : Fin 64) : (s.writeByte a b).pixel qy qx = s.pixel qy qx := by simp [State.pixel]

/-! ### `setPixel` -/

@[simp] theorem State.setPixel_v (py : Fin 32) (px : Fin 64) (b : Bool) : (s.setPixel py px b).v = s.v := rfl
@[simp] theorem State.setPixel_i (py : Fin 32) (px : Fin 64) (b : Bool) : (s.setPixel py px b).i = s.i := rfl
@[simp] theorem State.setPixel_pc (py : Fin 32) (px : Fin 64) (b : Bool) : (s.setPixel py px b).pc = s.pc := rfl
@[simp] theorem State.setPixel_stack (py : Fin 32) (px : Fin 64) (b : Bool) : (s.setPixel py px b).stack = s.stack := rfl
@[simp] theorem State.setPixel_sp (py : Fin 32) (px : Fin 64) (b : Bool) : (s.setPixel py px b).sp = s.sp := rfl
@[simp] theorem State.setPixel_dt (py : Fin 32) (px : Fin 64) (b : Bool) : (s.setPixel py px b).dt = s.dt := rfl
@[simp] theorem State.setPixel_st (py : Fin 32) (px : Fin 64) (b : Bool) : (s.setPixel py px b).st = s.st := rfl
@[simp] theorem State.setPixel_dirty (py : Fin 32) (px : Fin 64) (b : Bool) : (s.setPixel py px b).dirty = s.dirty := rfl
@[simp] theorem State.setPixel_mem (py : Fin 32) (px : Fin 64) (b : Bool) : (s.setPixel py px b).mem = s.mem := rfl
@[simp] theorem State.setPixel_wait (py : Fin 32) (px : Fin 64) (b : Bool) : (s.setPixel py px b).wait = s.wait := rfl
@[simp] theorem State.setPixel_fault (py : Fin 32) (px : Fin 64) (b : Bool) : (s.setPixel py px b).fault = s.fault := rfl
@[simp] theorem State.setPixel_inputs (py : Fin 32) (px : Fin 64) (b : Bool) : (s.setPixel py px b).inputs = s.inputs := rfl
@[simp] theorem State.setPixel_ticks (py : Fin 32) (px : Fin 64) (b : Bool) : (s.setPixel py px b).ticks = s.ticks := rfl
@[simp] theorem State.setPixel_out (py : Fin 32) (px : Fin 64) (b : Bool) : (s.setPixel py px b).out = s.out := rfl
@[simp] theorem State.setPixel_getV (py : Fin 32) (px : Fin 64) (b : Bool) (q : RegIdx) : (s.setPixel py px b).getV q = s.getV q := rfl
@[simp] theorem State.setPixel_stackEntry (py : Fin 32) (px : Fin 64) (b : Bool) (k : Fin 16) : (s.setPixel py px b).stackEntry k = s.stackEntry k := rfl
@[simp] theorem State.setPixel_readByte (py : Fin 32) (px : Fin 64) (b : Bool) (q : Nat) : (s.setPixel py px b).readByte q = s.readByte q := rfl

/-! ### `clearPixels` -/

@[simp] theorem State.clearPixels_v : s.clearPixels.v = s.v := rfl
@[simp] theorem State.clearPixels_i : s.clearPixels.i = s.i := rfl
@[simp] theorem State.clearPixels_pc : s.clearPixels.pc = s.pc := rfl
@[simp] theorem State.clearPixels_stack : s.clearPixels.stack = s.stack := rfl
@[simp] theorem State.clearPixels_sp : s.clearPixels.sp = s.sp := rfl
@[simp] theorem State.clearPixels_dt : s.clearPixels.dt = s.dt := rfl
@[simp] theorem State.clearPixels_st : s.clearPixels.st = s.st := rfl
@[simp] theorem State.clearPixels_dirty : s.clearPixels.dirty = s.dirty := rfl
@[simp] theorem State.clearPixels_mem : s.clearPixels.mem = s.mem := rfl
@[simp] theorem State.clearPixels_wait : s.clearPixels.wait = s.wait := rfl
@[simp] theorem State.clearPixels_fault : s.clearPixels.fault = s.fault := rfl
@[simp] theorem State.clearPixels_inputs : s.clearPixels.inputs = s.inputs := rfl
@[simp] theorem State.clearPixels_ticks : s.clearPixels.ticks = s.ticks := rfl
@[simp] theorem State.clearPixels_out : s.clearPixels.out = s.out := rfl
@[simp] theorem State.clearPixels_getV (q : RegIdx) : s.clearPixels.getV q = s.getV q := rfl
@[simp] theorem State.clearPixels_stackEntry (k : Fin 16) : s.clearPixels.stackEntry k = s.stackEntry k := rfl
@[simp] theorem State.clearPixels_readByte (q : Nat) : s.clearPixels.readByte q = s.readByte q := rfl

/-! ### `markDirty` -/

@[simp] theorem State.markDirty_v : s.markDirty.v = s.v := rfl
@[simp] theorem State.markDirty_i : s.markDirty.i = s.i := rfl
@[simp] theorem State.markDirty_pc : s.markDirty.pc = s.pc := rfl
@[simp] theorem State.markDirty_stack : s.markDirty.stack = s.stack := rfl
@[simp] theorem State.markDirty_sp : s.markDirty.sp = s.sp := rfl
@[simp] theorem State.markDirty_dt : s.markDirty.dt = s.dt := rfl
@[simp] theorem State.markDirty_st : s.markDirty.st = s.st := rfl
@[simp] theorem State.markDirty_pixels : s.markDirty.pixels = s.pixels := rfl
@[simp] theorem State.markDirty_dirty : s.markDirty.dirty = true := rfl
@[simp] theorem State.markDirty_mem : s.markDirty.mem = s.mem := rfl
@[simp] theorem State.markDirty_wait : s.markDirty.wait = s.wait := rfl
@[simp] theorem State.markDirty_fault : s.markDirty.fault = s.fault := rfl
@[simp] theorem State.markDirty_inputs : s.markDirty.inputs = s.inputs := rfl
@[simp] theorem State.markDirty_ticks : s.markDirty.ticks = s.ticks := rfl
@[simp] theorem State.markDirty_out : s.markDirty.out = s.out := rfl
@[simp] theorem State.markDirty_getV (q : RegIdx) : s.markDirty.getV q = s.getV q := rfl
@[simp] theorem State.markDirty_stackEntry (k : Fin 16) : s.markDirty.stackEntry k = s.stackEntry k := rfl
@[simp] theorem State.markDirty_pixel (qy : Fin 32) (qx : Fin 64) : s.markDirty.pixel qy qx = s.pixel qy qx := rfl
@[simp] theorem State.markDirty_readByte (q : Nat) : s.markDirty.readByte q = s.readByte q := rfl

/-! ### `setDtValue` -/

@[simp] theorem State.setDtValue_v (b : Byte) : (s.setDtValue b).v = s.v := rfl
@[simp] theorem State.setDtValue_i (b : Byte) : (s.setDtValue b).i = s.i := rfl
@[simp] theorem State.setDtValue_pc (b : Byte) : (s.setDtValue b).pc = s.pc := rfl
@[simp] theorem State.setDtValue_stack (b : Byte) : (s.setDtValue b).stack = s.stack := rfl
@[simp] theorem State.setDtValue_sp (b : Byte) : (s.setDtValue b).sp = s.sp := rfl
@[simp] theorem State.setDtValue_dt (b : Byte) : (s.setDtValue b).dt = { s.dt with value := b } := rfl
@[simp] theorem State.setDtValue_st (b : Byte) : (s.setDtValue b).st = s.st := rfl
@[simp] theorem State.setDtValue_pixels (b : Byte) : (s.setDtValue b).pixels = s.pixels := rfl
@[simp] theorem State.setDtValue_dirty (b : Byte) : (s.setDtValue b).dirty = s.dirty := rfl
@[simp] theorem State.setDtValue_mem (b : Byte) : (s.setDtValue b).mem = s.mem := rfl
@[simp] theorem State.setDtValue_wait (b : Byte) : (s.setDtValue b).wait = s.wait := rfl
@[simp] theorem State.setDtValue_fault (b : Byte) : (s.setDtValue b).fault = s.fault := rfl
@[simp] theorem State.setDtValue_inputs (b : Byte) : (s.setDtValue b).inputs = s.inputs := rfl
@[simp] theorem State.setDtValue_ticks (b : Byte) : (s.setDtValue b).ticks = s.ticks := rfl
@[simp] theorem State.setDtValue_out (b : Byte) : (s.setDtValue b).out = s.out := rfl
@[simp] theorem State.setDtValue_getV (b : Byte) (q : RegIdx) : (s.setDtValue b).getV q = s.getV q := rfl
@[simp] theorem State.setDtValue_stackEntry (b : Byte) (k : Fin 16) : (s.setDtValue b).stackEntry k = s.stackEntry k := rfl
@[simp] theorem State.setDtValue_pixel (b : Byte) (qy : Fin 32) (qx : Fin 64) : (s.setDtValue b).pixel qy qx = s.pixel qy qx := rfl
@[simp] theorem State.setDtValue_readByte (b : Byte) (q : Nat) : (s.setDtValue b).readByte q = s.readByte q := rfl

/-! ### `setStValue` -/

@[simp] theorem State.setStValue_v (b : Byte) : (s.setStValue b).v = s.v := rfl
@[simp] theorem State.setStValue_i (b : Byte) : (s.setStValue b).i = s.i := rfl
@[simp] theorem State.setStValue_pc (b : Byte) : (s.setStValue b).pc = s.pc := rfl
@[simp] theorem State.setStValue_stack (b : Byte) : (s.setStValue b).stack = s.stack := rfl
@[simp] theorem State.setStValue_sp (b : Byte) : (s.setStValue b).sp = s.sp := rfl
@[simp] theorem State.setStValue_dt (b : Byte) : (s.setStValue b).dt = s.dt := rfl
@[simp] theorem State.setStValue_st (b : Byte) : (s.setStValue b).st = { s.st with value := b } := rfl
@[simp] theorem State.setStValue_pixels (b : Byte) : (s.setStValue b).pixels = s.pixels := rfl
@[simp] theorem State.setStValue_dirty (b : Byte) : (s.setStValue b).dirty = s.dirty := rfl
@[simp] theorem State.setStValue_mem (b : Byte) : (s.setStValue b).mem = s.mem := rfl
@[simp] theorem State.setStValue_wait (b : Byte) : (s.setStValue b).wait = s.wait := rfl
@[simp] theorem State.setStValue_fault (b : Byte) : (s.setStValue b).fault = s.fault := rfl
@[simp] theorem State.setStValue_inputs (b : Byte) : (s.setStValue b).inputs = s.inputs := rfl
@[simp] theorem State.setStValue_ticks (b : Byte) : (s.setStValue b).ticks = s.ticks := rfl
@[simp] theorem State.setStValue_out (b : Byte) : (s.setStValue b).out = s.out := rfl
@[simp] theorem State.setStValue_getV (b : Byte) (q : RegIdx) : (s.setStValue b).getV q = s.getV q := rfl
@[simp] theorem State.setStValue_stackEntry (b : Byte) (k : Fin 16) : (s.setStValue b).stackEntry k = s.stackEntry k := rfl
@[simp] theorem State.setStValue_pixel (b : Byte) (qy : Fin 32) (qx : Fin 64) : (s.setStValue b).pixel qy qx = s.pixel qy qx := rfl
@[simp] theorem State.setStValue_readByte (b : Byte) (q : Nat) : (s.setStValue b).readByte q = s.readByte q := rfl

/-! ### `tickTimers` -/

@[simp] theorem State.tickTimers_v : s.tickTimers.v = s.v := rfl
@[simp] theorem State.tickTimers_i : s.tickTimers.i = s.i := rfl
@[simp] theorem State.tickTimers_pc : s.tickTimers.pc = s.pc := rfl
@[simp] theorem State.tickTimers_stack : s.tickTimers.stack = s.stack := rfl
@[simp] theorem State.tickTimers_sp : s.tickTimers.sp = s.sp := rfl
@[simp] theorem State.tickTimers_dt : s.tickTimers.dt = s.dt.tick := rfl
@[simp] theorem State.tickTimers_st : s.tickTimers.st = s.st.tick := rfl
@[simp] theorem State.tickTimers_pixels : s.tickTimers.pixels = s.pixels := rfl
@[simp] theorem State.tickTimers_dirty : s.tickTimers.dirty = s.dirty := rfl
@[simp] theorem State.tickTimers_mem : s.tickTimers.mem = s.mem := rfl
@[simp] theorem State.tickTimers_wait : s.tickTimers.wait = s.wait := rfl
@[simp] theorem State.tickTimers_fault : s.tickTimers.fault = s.fault := rfl
@[simp] theorem State.tickTimers_inputs : s.tickTimers.inputs = s.inputs := rfl
@[simp] theorem State.tickTimers_ticks : s.tickTimers.ticks = s.ticks := rfl
@[simp] theorem State.tickTimers_getV (q : RegIdx) : s.tickTimers.getV q = s.getV q := rfl
@[simp] theorem State.tickTimers_stackEntry (k : Fin 16) : s.tickTimers.stackEntry k = s.stackEntry k := rfl
@[simp] theorem State.tickTimers_pixel (qy : Fin 32) (qx : Fin 64) : s.tickTimers.pixel qy qx = s.pixel qy qx := rfl
@[simp] theorem State.tickTimers_readByte (q : Nat) : s.tickTimers.readByte q = s.readByte q := rfl

/-! ### `flushFrame` -/

@[simp] theorem State.flushFrame_v : s.flushFrame.v = s.v := by unfold State.flushFrame; split <;> rfl
@[simp] theorem State.flushFrame_i : s.flushFrame.i = s.i := by unfold State.flushFrame; split <;> rfl
@[simp] theorem State.flushFrame_pc : s.flushFrame.pc = s.pc := by unfold State.flushFrame; split <;> rfl
@[simp] theorem State.flushFrame_stack : s.flushFrame.stack = s.stack := by unfold State.flushFrame; split <;> rfl
@[simp] theorem State.flushFrame_sp : s.flushFrame.sp = s.sp := by unfold State.flushFrame; split <;> rfl
@[simp] theorem State.flushFrame_dt : s.flushFrame.dt = s.dt := by unfold State.flushFrame; split <;> rfl
@[simp] theorem State.flushFrame_st : s.flushFrame.st = s.st := by unfold State.flushFrame; split <;> rfl
@[simp] theorem State.flushFrame_pixels : s.flushFrame.pixels = s.pixels := by unfold State.flushFrame; split <;> rfl
@[simp] theorem State.flushFrame_mem : s.flushFrame.mem = s.mem := by unfold State.flushFrame; split <;> rfl
@[simp] theorem State.flushFrame_wait : s.flushFrame.wait = s.wait := by unfold State.flushFrame; split <;> rfl
@[simp] theorem State.flushFrame_fault : s.flushFrame.fault = s.fault := by unfold State.flushFrame; split <;> rfl
@[simp] theorem State.flushFrame_inputs : s.flushFrame.inputs = s.inputs := by unfold State.flushFrame; split <;> rfl
@[simp] theorem State.flushFrame_ticks : s.flushFrame.ticks = s.ticks := by unfold State.flushFrame; split <;> rfl
@[simp] theorem State.flushFrame_getV (q : RegIdx) : s.flushFrame.getV q = s.getV q := by simp [State.getV]
@[simp] theorem State.flushFrame_stackEntry (k : Fin 16) : s.flushFrame.stackEntry k = s.stackEntry k := by simp [State.stackEntry]
@[simp] theorem State.flushFrame_pixel (qy : Fin 32) (qx : Fin 64) : s.flushFrame.pixel qy qx = s.pixel qy qx := by simp [State.pixel]
@[simp] theorem State.flushFrame_readByte (q : Nat) : s.flushFrame.readByte q = s.readByte q := by simp [State.readByte]

/-! ### `clearOut` -/

@[simp] theorem State.clearOut_v : s.clearOut.v = s.v := rfl
@[simp] theorem State.clearOut_i : s.clearOut.i = s.i := rfl
@[simp] theorem State.clearOut_pc : s.clearOut.pc = s.pc := rfl
@[simp] theorem State.clearOut_stack : s.clearOut.stack = s.stack := rfl
@[simp] theorem State.clearOut_sp : s.clearOut.sp = s.sp := rfl
@[simp] theorem State.clearOut_dt : s.clearOut.dt = s.dt := rfl
@[simp] theorem State.clearOut_st : s.clearOut.st = s.st := rfl
@[simp] theorem State.clearOut_pixels : s.clearOut.pixels = s.pixels := rfl
@[simp] theorem State.clearOut_dirty : s.clearOut.dirty = s.dirty := rfl
@[simp] theorem State.clearOut_mem : s.clearOut.mem = s.mem := rfl
@[simp] theorem State.clearOut_wait : s.clearOut.wait = s.wait := rfl
@[simp] theorem State.clearOut_fault : s.clearOut.fault = s.fault := rfl
@[simp] theorem State.clearOut_inputs : s.clearOut.inputs = s.inputs := rfl
@[simp] theorem State.clearOut_ticks : s.clearOut.ticks = s.ticks := rfl
@[simp] theorem State.clearOut_out : s.clearOut.out = HostOutput.quiet := rfl
@[simp] theorem State.clearOut_getV (q : RegIdx) : s.clearOut.getV q = s.getV q := rfl
@[simp] theorem State.clearOut_stackEntry (k : Fin 16) : s.clearOut.stackEntry k = s.stackEntry k := rfl
@[simp] theorem State.clearOut_pixel (qy : Fin 32) (qx : Fin 64) : s.clearOut.pixel qy qx = s.pixel qy qx := rfl
@[simp] theorem State.clearOut_readByte (q : Nat) : s.clearOut.readByte q = s.readByte q := rfl

/-! ### `nextInput` -/

@[simp] theorem State.nextInput_v : s.nextInput.v = s.v := rfl
@[simp] theorem State.nextInput_i : s.nextInput.i = s.i := rfl
@[simp] theorem State.nextInput_pc : s.nextInput.pc = s.pc := rfl
@[simp] theorem State.nextInput_stack : s.nextInput.stack = s.stack := rfl
@[simp] theorem State.nextInput_sp : s.nextInput.sp = s.sp := rfl
@[simp] theorem State.nextInput_dt : s.nextInput.dt = s.dt := rfl
@[simp] theorem State.nextInput_st : s.nextInput.st = s.st := rfl
@[simp] theorem State.nextInput_pixels : s.nextInput.pixels = s.pixels := rfl
@[simp] theorem State.nextInput_dirty : s.nextInput.dirty = s.dirty := rfl
@[simp] theorem State.nextInput_mem : s.nextInput.mem = s.mem := rfl
@[simp] theorem State.nextInput_wait : s.nextInput.wait = s.wait := rfl
@[simp] theorem State.nextInput_fault : s.nextInput.fault = s.fault := rfl
@[simp] theorem State.nextInput_inputs : s.nextInput.inputs = s.inputs.tail := rfl
@[simp] theorem State.nextInput_ticks : s.nextInput.ticks = s.ticks + 1 := rfl
@[simp] theorem State.nextInput_out : s.nextInput.out = s.out := rfl
@[simp] theorem State.nextInput_getV (q : RegIdx) : s.nextInput.getV q = s.getV q := rfl
@[simp] theorem State.nextInput_stackEntry (k : Fin 16) : s.nextInput.stackEntry k = s.stackEntry k := rfl
@[simp] theorem State.nextInput_pixel (qy : Fin 32) (qx : Fin 64) : s.nextInput.pixel qy qx = s.pixel qy qx := rfl
@[simp] theorem State.nextInput_readByte (q : Nat) : s.nextInput.readByte q = s.readByte q := rfl

/-! ### `suspend` -/

@[simp] theorem State.suspend_v (x : RegIdx) : (s.suspend x).v = s.v := rfl
@[simp] theorem State.suspend_i (x : RegIdx) : (s.suspend x).i = s.i := rfl
@[simp] theorem State.suspend_pc (x : RegIdx) : (s.suspend x).pc = s.pc := rfl
@[simp] theorem State.suspend_stack (x : RegIdx) : (s.suspend x).stack = s.stack := rfl
@[simp] theorem State.suspend_sp (x : RegIdx) : (s.suspend x).sp = s.sp := rfl
@[simp] theorem State.suspend_dt (x : RegIdx) : (s.suspend x).dt = s.dt := rfl
@[simp] theorem State.suspend_st (x : RegIdx) : (s.suspend x).st = s.st := rfl
@[simp] theorem State.suspend_pixels (x : RegIdx) : (s.suspend x).pixels = s.pixels := rfl
@[simp] theorem State.suspend_dirty (x : RegIdx) : (s.suspend x).dirty = s.dirty := rfl
@[simp] theorem State.suspend_mem (x : RegIdx) : (s.suspend x).mem = s.mem := rfl
@[simp] theorem State.suspend_wait (x : RegIdx) : (s.suspend x).wait = some x := rfl
@[simp] theorem State.suspend_fault (x : RegIdx) : (s.suspend x).fault = s.fault := rfl
@[simp] theorem State.suspend_inputs (x : RegIdx) : (s.suspend x).inputs = s.inputs := rfl
@[simp] theorem State.suspend_ticks (x : RegIdx) : (s.suspend x).ticks = s.ticks := rfl
@[simp] theorem State.suspend_out (x : RegIdx) : (s.suspend x).out = s.out := rfl
@[simp] theorem State.suspend_getV (x : RegIdx) (q : RegIdx) : (s.suspend x).getV q = s.getV q := rfl
@[simp] theorem State.suspend_stackEntry (x : RegIdx) (k : Fin 16) : (s.suspend x).stackEntry k = s.stackEntry k := rfl
@[simp] theorem State.suspend_pixel (x : RegIdx) (qy : Fin 32) (qx : Fin 64) : (s.suspend x).pixel qy qx = s.pixel qy qx := rfl
@[simp] theorem State.suspend_readByte (x : RegIdx) (q : Nat) : (s.suspend x).readByte q = s.readByte q := rfl

/-! ### `resume` -/

@[simp] theorem State.resume_i (x : RegIdx) (k : KeyIdx) : (s.resume x k).i = s.i := rfl
@[simp] theorem State.resume_pc (x : RegIdx) (k : KeyIdx) : (s.resume x k).pc = s.pc := rfl
@[simp] theorem State.resume_stack (x : RegIdx) (k : KeyIdx) : (s.resume x k).stack = s.stack := rfl
@[simp] theorem State.resume_sp (x : RegIdx) (k : KeyIdx) : (s.resume x k).sp = s.sp := rfl
@[simp] theorem State.resume_dt (x : RegIdx) (k : KeyIdx) : (s.resume x k).dt = s.dt := rfl
@[simp] theorem State.resume_st (x : RegIdx) (k : KeyIdx) : (s.resume x k).st = s.st := rfl
@[simp] theorem State.resume_pixels (x : RegIdx) (k : KeyIdx) : (s.resume x k).pixels = s.pixels := rfl
@[simp] theorem State.resume_dirty (x : RegIdx) (k : KeyIdx) : (s.resume x k).dirty = s.dirty := rfl
@[simp] theorem State.resume_mem (x : RegIdx) (k : KeyIdx) : (s.resume x k).mem = s.mem := rfl
@[simp] theorem State.resume_wait (x : RegIdx) (k : KeyIdx) : (s.resume x k).wait = none := rfl
@[simp] theorem State.resume_fault (x : RegIdx) (k : KeyIdx) : (s.resume x k).fault = s.fault := rfl
@[simp] theorem State.resume_inputs (x : RegIdx) (k : KeyIdx) : (s.resume x k).inputs = s.inputs := rfl
@[simp] theorem State.resume_ticks (x : RegIdx) (k : KeyIdx) : (s.resume x k).ticks = s.ticks := rfl
@[simp] theorem State.resume_out (x : RegIdx) (k : KeyIdx) : (s.resume x k).out = s.out := rfl
@[simp] theorem State.resume_stackEntry (x : RegIdx) (key : KeyIdx) (k : Fin 16) : (s.resume x key).stackEntry k = s.stackEntry k := rfl
@[simp] theorem State.resume_pixel (x : RegIdx) (k : KeyIdx) (qy : Fin 32) (qx : Fin 64) : (s.resume x k).pixel qy qx = s.pixel qy qx := rfl
@[simp] theorem State.resume_readByte (x : RegIdx) (k : KeyIdx) (q : Nat) : (s.resume x k).readByte q = s.readByte q := rfl

/-! ### `takeFault` -/

@[simp] theorem State.takeFault_v (kind : FaultKind) (a info : Word) : (s.takeFault kind a info).v = s.v := rfl
@[simp] theorem State.takeFault_i (kind : FaultKind) (a info : Word) : (s.takeFault kind a info).i = s.i := rfl
@[simp] theorem State.takeFault_pc (kind : FaultKind) (a info : Word) : (s.takeFault kind a info).pc = a := rfl
@[simp] theorem State.takeFault_stack (kind : FaultKind) (a info : Word) : (s.takeFault kind a info).stack = s.stack := rfl
@[simp] theorem State.takeFault_sp (kind : FaultKind) (a info : Word) : (s.takeFault kind a info).sp = s.sp := rfl
@[simp] theorem State.takeFault_dt (kind : FaultKind) (a info : Word) : (s.takeFault kind a info).dt = s.dt := rfl
@[simp] theorem State.takeFault_st (kind : FaultKind) (a info : Word) : (s.takeFault kind a info).st = s.st := rfl
@[simp] theorem State.takeFault_pixels (kind : FaultKind) (a info : Word) : (s.takeFault kind a info).pixels = s.pixels := rfl
@[simp] theorem State.takeFault_dirty (kind : FaultKind) (a info : Word) : (s.takeFault kind a info).dirty = s.dirty := rfl
@[simp] theorem State.takeFault_mem (kind : FaultKind) (a info : Word) : (s.takeFault kind a info).mem = s.mem := rfl
@[simp] theorem State.takeFault_wait (kind : FaultKind) (a info : Word) : (s.takeFault kind a info).wait = s.wait := rfl
@[simp] theorem State.takeFault_fault (kind : FaultKind) (a info : Word) : (s.takeFault kind a info).fault = some { kind := kind, pc := a, info := info } := rfl
@[simp] theorem State.takeFault_inputs (kind : FaultKind) (a info : Word) : (s.takeFault kind a info).inputs = s.inputs := rfl
@[simp] theorem State.takeFault_ticks (kind : FaultKind) (a info : Word) : (s.takeFault kind a info).ticks = s.ticks := rfl
@[simp] theorem State.takeFault_out (kind : FaultKind) (a info : Word) : (s.takeFault kind a info).out = { s.out with fault := some { kind := kind, pc := a, info := info } } := rfl
@[simp] theorem State.takeFault_getV (kind : FaultKind) (a info : Word) (q : RegIdx) : (s.takeFault kind a info).getV q = s.getV q := rfl
@[simp] theorem State.takeFault_stackEntry (kind : FaultKind) (a info : Word) (k : Fin 16) : (s.takeFault kind a info).stackEntry k = s.stackEntry k := rfl
@[simp] theorem State.takeFault_pixel (kind : FaultKind) (a info : Word) (qy : Fin 32) (qx : Fin 64) : (s.takeFault kind a info).pixel qy qx = s.pixel qy qx := rfl
@[simp] theorem State.takeFault_readByte (kind : FaultKind) (a info : Word) (q : Nat) : (s.takeFault kind a info).readByte q = s.readByte q := rfl

/-! ### `raise` -/

@[simp] theorem State.raise_v (kind : FaultKind) (info : Word) : (s.raise kind info).v = s.v := rfl
@[simp] theorem State.raise_i (kind : FaultKind) (info : Word) : (s.raise kind info).i = s.i := rfl
@[simp] theorem State.raise_pc (kind : FaultKind) (info : Word) : (s.raise kind info).pc = s.pc - 2#16 := rfl
@[simp] theorem State.raise_stack (kind : FaultKind) (info : Word) : (s.raise kind info).stack = s.stack := rfl
@[simp] theorem State.raise_sp (kind : FaultKind) (info : Word) : (s.raise kind info).sp = s.sp := rfl
@[simp] theorem State.raise_dt (kind : FaultKind) (info : Word) : (s.raise kind info).dt = s.dt := rfl
@[simp] theorem State.raise_st (kind : FaultKind) (info : Word) : (s.raise kind info).st = s.st := rfl
@[simp] theorem State.raise_pixels (kind : FaultKind) (info : Word) : (s.raise kind info).pixels = s.pixels := rfl
@[simp] theorem State.raise_dirty (kind : FaultKind) (info : Word) : (s.raise kind info).dirty = s.dirty := rfl
@[simp] theorem State.raise_mem (kind : FaultKind) (info : Word) : (s.raise kind info).mem = s.mem := rfl
@[simp] theorem State.raise_wait (kind : FaultKind) (info : Word) : (s.raise kind info).wait = s.wait := rfl
@[simp] theorem State.raise_fault (kind : FaultKind) (info : Word) : (s.raise kind info).fault = some { kind := kind, pc := s.pc - 2#16, info := info } := rfl
@[simp] theorem State.raise_inputs (kind : FaultKind) (info : Word) : (s.raise kind info).inputs = s.inputs := rfl
@[simp] theorem State.raise_ticks (kind : FaultKind) (info : Word) : (s.raise kind info).ticks = s.ticks := rfl
@[simp] theorem State.raise_out (kind : FaultKind) (info : Word) : (s.raise kind info).out = { s.out with fault := some { kind := kind, pc := s.pc - 2#16, info := info } } := rfl
@[simp] theorem State.raise_getV (kind : FaultKind) (info : Word) (q : RegIdx) : (s.raise kind info).getV q = s.getV q := rfl
@[simp] theorem State.raise_stackEntry (kind : FaultKind) (info : Word) (k : Fin 16) : (s.raise kind info).stackEntry k = s.stackEntry k := rfl
@[simp] theorem State.raise_pixel (kind : FaultKind) (info : Word) (qy : Fin 32) (qx : Fin 64) : (s.raise kind info).pixel qy qx = s.pixel qy qx := rfl
@[simp] theorem State.raise_readByte (kind : FaultKind) (info : Word) (q : Nat) : (s.raise kind info).readByte q = s.readByte q := rfl

end Sys2Proof.Machine
end

