-- ==== Sys2Proof/Laws/Ops.lean ====
section
/-! SUPPORT. Laws of the named operations: what a read gives after each write, what a tick does to a
timer, what the register loops of Fx55 and Fx65 do. -/

namespace Sys2Proof.Machine

/-! ## Registers -/

@[simp] theorem State.getV_setV (s : State) (x : RegIdx) (b : Byte) (r : RegIdx) :
    (s.setV x b).getV r = if r = x then b else s.getV r := by
  by_cases h : r = x
  · subst h; simp [State.getV, State.setV]
  · have : x.val ≠ r.val := fun e => h (Fin.ext e.symm)
    simp [State.getV, State.setV, h, this]

@[simp] theorem State.getV_setFlag (s : State) (b : Byte) (r : RegIdx) :
    (s.setFlag b).getV r = if r = vf then b else s.getV r := State.getV_setV s vf b r

@[simp] theorem State.getV_resume (s : State) (x : RegIdx) (k : KeyIdx) (r : RegIdx) :
    (s.resume x k).getV r = if r = x then BitVec.ofNat 8 k.val else s.getV r :=
  State.getV_setV s x (BitVec.ofNat 8 k.val) r

/-- The general registers are what `getV` reads. -/
theorem State.v_eq_of_getV {s t : State} (h : ∀ r, t.getV r = s.getV r) : t.v = s.v :=
  Vector.ext fun k hk => h ⟨k, hk⟩

/-! ## Stack -/

/-- A push with a free slot fills that slot and no other. -/
theorem State.stackEntry_push (s : State) (w : Word) (h : s.sp.val < 16) (k : Fin 16) :
    (s.push w).stackEntry k = if k.val = s.sp.val then w else s.stackEntry k := by
  unfold State.push State.stackEntry
  rw [dif_pos h]
  by_cases hk : k.val = s.sp.val
  · simp [hk]
  · simp [hk, Ne.symm hk]

theorem State.sp_push (s : State) (w : Word) (h : s.sp.val < 16) : (s.push w).sp.val = s.sp.val + 1 := by
  unfold State.push; rw [dif_pos h]

theorem State.sp_pop (s : State) : s.pop.sp.val = s.sp.val - 1 := rfl

theorem State.stackTop_eq (s : State) (h : 0 < s.sp.val) :
    s.stackTop = s.stackEntry ⟨s.sp.val - 1, by omega⟩ := by
  unfold State.stackTop State.stackEntry; rw [dif_pos h]; rfl

/-- What was pushed is on top. -/
theorem State.stackTop_push (s : State) (w : Word) (h : s.sp.val < 16) : (s.push w).stackTop = w := by
  have hp := State.sp_push s w h
  rw [State.stackTop_eq _ (by omega), State.stackEntry_push s w h]
  simp [hp]

/-! ## Memory -/

theorem State.readByte_writeByte {s : State} (hs : s.mem.wf = true) {a : Nat} (ha : a < Config.memSize)
    (b : Byte) (q : Nat) : (s.writeByte a b).readByte q = if q = a then b else s.readByte q := by
  simp only [State.readByte, State.writeByte, if_pos ha]
  exact Memory.read_write hs a b q

theorem State.wf_writeByte {s : State} (hs : s.mem.wf = true) (a : Nat) (b : Byte) :
    (s.writeByte a b).mem.wf = true := by
  unfold State.writeByte
  split
  · exact Memory.wf_write ‹_› hs
  · exact hs

/-! ## Framebuffer -/

@[simp] theorem State.pixel_setPixel (s : State) (py : Fin 32) (px : Fin 64) (b : Bool) (qy : Fin 32)
    (qx : Fin 64) :
    (s.setPixel py px b).pixel qy qx = if qy = py ∧ qx = px then b else s.pixel qy qx := by
  unfold State.pixel State.setPixel
  by_cases hy : qy = py
  · subst hy
    by_cases hx : qx = px
    · subst hx; simp
    · have : px.val ≠ qx.val := fun e => hx (Fin.ext e.symm)
      simp [hx, this]
  · have : py.val ≠ qy.val := fun e => hy (Fin.ext e.symm)
    simp [hy, this]

@[simp] theorem State.pixel_clearPixels (s : State) (qy : Fin 32) (qx : Fin 64) :
    s.clearPixels.pixel qy qx = false := by
  simp [State.pixel, State.clearPixels]

/-- The framebuffer is what `pixel` reads. -/
theorem State.pixels_eq_of_pixel {s t : State} (h : ∀ py px, t.pixel py px = s.pixel py px) :
    t.pixels = s.pixels :=
  Vector.ext fun py hy => Vector.ext fun px hx => h ⟨py, hy⟩ ⟨px, hx⟩

/-! ## Timers -/

theorem Timer.countDown_of_active {t : Timer} (h : t.active = true) :
    t.countDown = { value := timerDec t.value, active := true } := by
  cases t; simp_all [Timer.countDown]

theorem Timer.countDown_of_inactive {t : Timer} (h : t.active = false) : t.countDown = t := by
  simp [Timer.countDown, h]

/-- What one tick does, by whether the timer is active and by its value (60_exceptions.md R137). -/
theorem Timer.tick_cases (t : Timer) :
    t.tick =
      if t.active then { value := timerDec t.value, active := decide (timerDec t.value ≠ 0#8) }
      else if t.value = 0#8 then t
      else { value := t.value - 1#8, active := decide (t.value - 1#8 ≠ 0#8) } := by
  obtain ⟨v, a⟩ := t
  cases a
  · by_cases h : v = 0#8
    · simp [Timer.tick, Timer.countDown, Timer.activate, Timer.armed, Timer.expire, h]
    · simp only [Timer.tick, Timer.countDown, Timer.activate, Timer.armed, Timer.expire, h]
      by_cases h2 : v - 1#8 = 0#8 <;> simp [h, h2]
  · simp only [Timer.tick, Timer.countDown, Timer.activate, Timer.armed, Timer.expire]
    by_cases h2 : timerDec v = 0#8 <;> simp [h2]

/-- A tick runs the callback exactly when it finds the timer inactive with a value above 0. -/
theorem Timer.tickFires_iff (t : Timer) : t.tickFires = true ↔ t.active = false ∧ t.value ≠ 0#8 := by
  obtain ⟨v, a⟩ := t
  cases a <;> simp [Timer.tickFires, Timer.countDown, Timer.armed]

/-- After a tick a timer is active exactly when its value is above 0, whatever it was before
(60_exceptions.md R140). -/
theorem Timer.settled_tick (t : Timer) : t.tick.settled := by
  rw [Timer.tick_cases]
  split
  · rfl
  · split
    · rename_i ha hv
      simp only [Bool.not_eq_true] at ha
      simp [Timer.settled, ha, hv]
    · rfl

/-! ## The register loops -/

theorem State.fin_ofNat_eq (k : Nat) (r : RegIdx) (h : k < 16) : (r = Fin.ofNat 16 k) ↔ r.val = k := by
  constructor
  · intro e; rw [e]; simp [Fin.ofNat, Nat.mod_eq_of_lt h]
  · intro e; apply Fin.ext; simp [Fin.ofNat, Nat.mod_eq_of_lt h, e]

/-- Storing registers changes nothing but memory. -/
theorem State.storeRegs_eq (s : State) (c : Nat) : s.storeRegs c = { s with mem := (s.storeRegs c).mem } := by
  induction c with
  | zero => rfl
  | succ k ih =>
    have : ∀ (t : State) a b, t.writeByte a b = { t with mem := (t.writeByte a b).mem } := by
      intro t a b; unfold State.writeByte; split <;> rfl
    rw [State.storeRegs, this, ih]

/-- Storing registers keeps the canonical form of the memory. -/
theorem State.wf_storeRegs {s : State} (hs : s.mem.wf = true) (c : Nat) : (s.storeRegs c).mem.wf = true := by
  induction c with
  | zero => exact hs
  | succ k ih => exact State.wf_writeByte ih _ _

/-- What the first `c` registers stored from `I` up leave in memory. -/
theorem State.readByte_storeRegs {s : State} (hs : s.mem.wf = true) :
    ∀ {c : Nat}, c ≤ 16 → s.i.toNat + c ≤ Config.memSize → ∀ q : Nat,
    (s.storeRegs c).readByte q =
      if s.i.toNat ≤ q ∧ q < s.i.toNat + c then s.getV (Fin.ofNat 16 (q - s.i.toNat)) else s.readByte q
  | 0, _, _, q => by
    have : ¬ (s.i.toNat ≤ q ∧ q < s.i.toNat + 0) := by omega
    rw [if_neg this]; rfl
  | k + 1, hc, hb, q => by
    rw [State.storeRegs, State.readByte_writeByte (State.wf_storeRegs hs k) (by unfold State.ea; omega),
      State.readByte_storeRegs hs (by omega) (by omega)]
    unfold State.ea
    by_cases h1 : q = s.i.toNat + k
    · have h2 : s.i.toNat ≤ q ∧ q < s.i.toNat + (k + 1) := by omega
      rw [if_pos h1, if_pos h2, h1, Nat.add_sub_cancel_left]
    · by_cases h3 : s.i.toNat ≤ q ∧ q < s.i.toNat + k
      · have h2 : s.i.toNat ≤ q ∧ q < s.i.toNat + (k + 1) := by omega
        rw [if_neg h1, if_pos h3, if_pos h2]
      · have h2 : ¬ (s.i.toNat ≤ q ∧ q < s.i.toNat + (k + 1)) := by omega
        rw [if_neg h1, if_neg h3, if_neg h2]

/-- Loading registers changes nothing but the registers. -/
theorem State.loadRegs_eq (s : State) (c : Nat) : s.loadRegs c = { s with v := (s.loadRegs c).v } := by
  induction c with
  | zero => rfl
  | succ k ih =>
    have : ∀ (t : State) r b, t.setV r b = { t with v := (t.setV r b).v } := fun _ _ _ => rfl
    rw [State.loadRegs, this, ih]

/-- What the first `c` registers loaded from `I` up hold. -/
theorem State.getV_loadRegs (s : State) : ∀ {c : Nat}, c ≤ 16 → ∀ r : RegIdx,
    (s.loadRegs c).getV r = if r.val < c then s.readByte (s.ea r.val) else s.getV r
  | 0, _, _ => by simp [State.loadRegs]
  | k + 1, hc, r => by
    rw [State.loadRegs, State.getV_setV, State.getV_loadRegs s (by omega) r]
    by_cases h1 : r.val = k
    · have := (State.fin_ofNat_eq k r (by omega)).mpr h1
      rw [if_pos this, if_pos (by omega), h1]
    · have := mt (State.fin_ofNat_eq k r (by omega)).mp h1
      rw [if_neg this]
      by_cases h2 : r.val < k
      · rw [if_pos h2, if_pos (by omega)]
      · rw [if_neg h2, if_neg (by omega)]

/-- The block of `count` bytes at `I` exists: it is empty or ends below `MEM_SIZE`. -/
theorem State.blockExists_iff (s : State) (count : Nat) :
    s.blockExists count = true ↔ count = 0 ∨ s.i.toNat + count ≤ Config.memSize := by
  unfold State.blockExists State.ea
  simp only [Bool.or_eq_true, decide_eq_true_eq]
  omega

end Sys2Proof.Machine
end

