-- ==== Sys2Proof/Laws/Cycle.lean ====
section
/-! SUPPORT. Laws of the cycle: every meaning answers a next state, and the ways a step can go. -/

namespace Sys2Proof.Machine

/-- Every instruction answers a next state from every state: the instruction rules are total (40_cycle.md
R68), and a fault is taken as a next state. -/
theorem exec_next (i : Instr) (s : State) : ∃ t, exec i s = .next t := by
  have two : ∀ (c : Prop) [Decidable c] (a b : State),
      ∃ t, (if c then (.next a : Host.Outcome State Fault Refusal) else .next b) = .next t := by
    intro c _ a b; split <;> exact ⟨_, rfl⟩
  cases i <;> first | exact ⟨_, rfl⟩ | exact two _ _ _

/-! ## TICK and FLUSH -/

@[simp] theorem State.finishCycle_v (s : State) : s.finishCycle.v = s.v := by
  unfold State.finishCycle State.flushFrame; split <;> rfl
@[simp] theorem State.finishCycle_i (s : State) : s.finishCycle.i = s.i := by
  unfold State.finishCycle State.flushFrame; split <;> rfl
@[simp] theorem State.finishCycle_pc (s : State) : s.finishCycle.pc = s.pc := by
  unfold State.finishCycle State.flushFrame; split <;> rfl
@[simp] theorem State.finishCycle_stack (s : State) : s.finishCycle.stack = s.stack := by
  unfold State.finishCycle State.flushFrame; split <;> rfl
@[simp] theorem State.finishCycle_sp (s : State) : s.finishCycle.sp = s.sp := by
  unfold State.finishCycle State.flushFrame; split <;> rfl
@[simp] theorem State.finishCycle_pixels (s : State) : s.finishCycle.pixels = s.pixels := by
  unfold State.finishCycle State.flushFrame; split <;> rfl
@[simp] theorem State.finishCycle_mem (s : State) : s.finishCycle.mem = s.mem := by
  unfold State.finishCycle State.flushFrame; split <;> rfl
@[simp] theorem State.finishCycle_wait (s : State) : s.finishCycle.wait = s.wait := by
  unfold State.finishCycle State.flushFrame; split <;> rfl
@[simp] theorem State.finishCycle_fault (s : State) : s.finishCycle.fault = s.fault := by
  unfold State.finishCycle State.flushFrame; split <;> rfl
@[simp] theorem State.finishCycle_inputs (s : State) : s.finishCycle.inputs = s.inputs := by
  unfold State.finishCycle State.flushFrame; split <;> rfl
@[simp] theorem State.finishCycle_ticks (s : State) : s.finishCycle.ticks = s.ticks := by
  unfold State.finishCycle State.flushFrame; split <;> rfl
@[simp] theorem State.finishCycle_dt (s : State) : s.finishCycle.dt = s.dt.tick := by
  unfold State.finishCycle State.flushFrame; split <;> rfl
@[simp] theorem State.finishCycle_st (s : State) : s.finishCycle.st = s.st.tick := by
  unfold State.finishCycle State.flushFrame; split <;> rfl
@[simp] theorem State.finishCycle_dirty (s : State) : s.finishCycle.dirty = false := by
  unfold State.finishCycle State.flushFrame; split <;> simp_all
@[simp] theorem State.finishCycle_getV (s : State) (r : RegIdx) : s.finishCycle.getV r = s.getV r := by
  simp [State.getV]
@[simp] theorem State.finishCycle_stackEntry (s : State) (k : Fin 16) :
    s.finishCycle.stackEntry k = s.stackEntry k := by simp [State.stackEntry]
@[simp] theorem State.finishCycle_pixel (s : State) (py : Fin 32) (px : Fin 64) :
    s.finishCycle.pixel py px = s.pixel py px := by simp [State.pixel]
@[simp] theorem State.finishCycle_readByte (s : State) (a : Nat) :
    s.finishCycle.readByte a = s.readByte a := by simp [State.readByte]

/-- The outputs TICK and FLUSH set: a beep when the sound timer fires, a notification when `dirty`. -/
theorem State.finishCycle_out (s : State) :
    s.finishCycle.out = { s.out with
      beep := s.out.beep || s.st.tickFires, frameNotify := s.out.frameNotify || s.dirty } := by
  unfold State.finishCycle State.flushFrame; split <;> simp_all [State.tickTimers]

/-! ## After the execute phase -/

theorem State.afterExecute_of_fault {s : State} (h : s.fault.isSome) : s.afterExecute = s := by
  simp [State.afterExecute, h]

theorem State.afterExecute_of_wait {s : State} (h : s.wait.isSome) : s.afterExecute = s := by
  simp [State.afterExecute, h]

theorem State.afterExecute_of_none {s : State} (hf : s.fault = none) (hw : s.wait = none) :
    s.afterExecute = s.finishCycle := by simp [State.afterExecute, hf, hw]

/-- What follows the execute phase raises no fault and clears none. -/
@[simp] theorem State.afterExecute_fault (s : State) : s.afterExecute.fault = s.fault := by
  unfold State.afterExecute; split <;> [skip; split] <;> simp

/-- What follows the execute phase does not move `pc`. -/
@[simp] theorem State.afterExecute_pc (s : State) : s.afterExecute.pc = s.pc := by
  unfold State.afterExecute; split <;> [skip; split] <;> simp

/-! ## The fetch -/

/-- The fetch reads the two bytes at `pc`, or names the lower address that does not exist (40_cycle.md
R72). -/
theorem State.fetch_cases (s : State) :
    s.fetch =
      if s.pc.toNat + 1 < Config.memSize then
        .ok (wordOfBytes (s.readByte s.pc.toNat) (s.readByte (s.pc.toNat + 1)))
      else if s.pc.toNat < Config.memSize then .error (s.pc.toNat + 1)
      else .error s.pc.toNat := by
  unfold State.fetch State.memRead
  by_cases h1 : s.pc.toNat + 1 < Config.memSize
  · have h2 : s.pc.toNat < Config.memSize := by omega
    simp [h1, h2]
  · by_cases h2 : s.pc.toNat < Config.memSize <;> simp [h1, h2]

/-- A fetch that succeeds. -/
theorem State.of_fetch_ok {s : State} {w : Word} (h : s.fetch = .ok w) :
    s.pc.toNat + 1 < Config.memSize ∧
      w = wordOfBytes (s.readByte s.pc.toNat) (s.readByte (s.pc.toNat + 1)) := by
  rw [State.fetch_cases] at h
  split at h
  · cases h; exact ⟨by omega, rfl⟩
  · split at h <;> cases h

/-- A fetch that fails, and the address it names. -/
theorem State.of_fetch_error {s : State} {a : Nat} (h : s.fetch = .error a) :
    4095 ≤ s.pc.toNat ∧ BitVec.ofNat 16 a = (if s.pc.toNat = 4095 then 4096#16 else s.pc) := by
  rw [State.fetch_cases] at h
  have e : Config.memSize = 4096 := rfl
  split at h
  · cases h
  · split at h <;> cases h
    · have : s.pc.toNat = 4095 := by omega
      simp [this]
    · have : s.pc.toNat ≠ 4095 := by omega
      simp [this]; omega

/-- A placed word is the word the next cycle fetches. -/
theorem State.fetch_placeWord {s : State} (h : s.mem.wf = true) (w : Word) :
    (s.placeWord w).fetch = .ok w := by
  have e : Config.memSize = 4096 := rfl
  have ha : s.fetchAddr.toNat + 1 < Config.memSize := by
    unfold State.fetchAddr; split
    · assumption
    · decide
  have hr : ∀ q, (s.placeWord w).readByte q = ((s.writeByte s.fetchAddr.toNat (highByte w)).writeByte
      (s.fetchAddr.toNat + 1) (lowByte w)).readByte q := fun _ => rfl
  have hp : (s.placeWord w).pc = s.fetchAddr := rfl
  rw [State.fetch_cases, hp, if_pos ha, hr, hr, State.readByte_writeByte (State.wf_writeByte h _ _) ha,
    State.readByte_writeByte h (by omega), State.readByte_writeByte (State.wf_writeByte h _ _) ha]
  simp [wordOfBytes_highByte_lowByte]

/-! ## The step -/

@[simp] theorem State.fetch_clearOut (s : State) : s.clearOut.fetch = s.fetch := rfl

/-- A halted cycle. -/
theorem step_halted {s : State} (h : s.fault.isSome) : step s = .next s.clearOut.nextInput := by
  obtain ⟨f, hf⟩ := Option.isSome_iff_exists.mp h
  simp [step, runCycle, cycleBody, endCycle, hf]

/-- A waiting cycle. -/
theorem step_waiting {s : State} {x : RegIdx} (hf : s.fault = none) (hw : s.wait = some x) :
    step s = .next (s.clearOut.waitingCycle x).nextInput := by
  simp [step, runCycle, cycleBody, endCycle, hf, hw]

/-- A cycle whose fetch finds an address that does not exist. -/
theorem step_fetch_fault {s : State} {a : Nat} (hf : s.fault = none) (hw : s.wait = none)
    (h : s.fetch = .error a) :
    step s = .next (s.clearOut.takeFault .memoryOutOfBounds s.pc (BitVec.ofNat 16 a)).nextInput := by
  simp [step, runCycle, cycleBody, endCycle, runningCycle, hf, hw, h]

/-- A cycle whose word is no instruction. -/
theorem step_unsupported {s : State} {w : Word} {e : DecodeError} (hf : s.fault = none) (hw : s.wait = none)
    (h : s.fetch = .ok w) (hd : decodeWord w = .error e) :
    step s = .next (s.clearOut.advance.raise .unsupportedOpcode w).nextInput := by
  simp [step, runCycle, cycleBody, endCycle, runningCycle, hf, hw, h, hd]

/-- A cycle that executes an instruction. -/
theorem step_execute {s : State} {w : Word} {i : Instr} {u : State} (hf : s.fault = none)
    (hw : s.wait = none) (h : s.fetch = .ok w) (hd : decodeWord w = .ok i)
    (he : exec i s.clearOut.advance = .next u) : step s = .next u.afterExecute.nextInput := by
  simp [step, runCycle, cycleBody, endCycle, runningCycle, executeCycle, hf, hw, h, hd, he]

/-- The ways a step can go: halted, waiting, a fault of the fetch, a fault of the decoder, or an executed
instruction (40_cycle.md R69). -/
theorem step_cases (s : State) :
    (s.fault.isSome ∧ step s = .next s.clearOut.nextInput) ∨
    (∃ x, s.fault = none ∧ s.wait = some x ∧ step s = .next (s.clearOut.waitingCycle x).nextInput) ∨
    (∃ a, s.fault = none ∧ s.wait = none ∧ s.fetch = .error a ∧
      step s = .next (s.clearOut.takeFault .memoryOutOfBounds s.pc (BitVec.ofNat 16 a)).nextInput) ∨
    (∃ w e, s.fault = none ∧ s.wait = none ∧ s.fetch = .ok w ∧ decodeWord w = .error e ∧
      step s = .next (s.clearOut.advance.raise .unsupportedOpcode w).nextInput) ∨
    (∃ w i u, s.fault = none ∧ s.wait = none ∧ s.fetch = .ok w ∧ decodeWord w = .ok i ∧
      exec i s.clearOut.advance = .next u ∧ step s = .next u.afterExecute.nextInput) := by
  cases hf : s.fault with
  | some f => exact .inl ⟨rfl, step_halted (by simp [hf])⟩
  | none =>
    cases hw : s.wait with
    | some x => exact .inr (.inl ⟨x, rfl, rfl, step_waiting hf hw⟩)
    | none =>
      cases h : s.fetch with
      | error a => exact .inr (.inr (.inl ⟨a, rfl, rfl, rfl, step_fetch_fault hf hw h⟩))
      | ok w =>
        cases hd : decodeWord w with
        | error e => exact .inr (.inr (.inr (.inl ⟨w, e, rfl, rfl, rfl, hd, step_unsupported hf hw h hd⟩)))
        | ok i =>
          obtain ⟨u, hu⟩ := exec_next i s.clearOut.advance
          exact .inr (.inr (.inr (.inr ⟨w, i, u, rfl, rfl, rfl, hd, hu, step_execute hf hw h hd hu⟩)))

/-- The advance and its undoing cancel: the address of an executing instruction is where it was fetched
from (10_state.md R15). -/
theorem State.instrAddr_advance (s : State) : s.advance.instrAddr = s.pc := by
  simp [State.instrAddr]

/-- A fault of the executing instruction is the entry at the address it was fetched from. -/
theorem State.raise_advance (s : State) (kind : FaultKind) (info : Word) :
    s.advance.raise kind info = s.takeFault kind s.pc info := by
  unfold State.raise; rw [State.instrAddr_advance]; rfl

end Sys2Proof.Machine
end

