-- ==== Sys2Proof/Laws/Display.lean ====
section
/-! SUPPORT. Laws of the sprite plot: what a sprite bit, a sprite row and a whole sprite do to the
framebuffer and to `VF`, and that they do nothing else. -/

namespace Sys2Proof.Machine

/-! ## The frame of the plot, for every `x` and `y` -/

/-- `t` differs from `s` in `VF` and in the framebuffer at most. -/
structure PlotFrame (s t : State) : Prop where
  /-- Only the registers and the pixels are written. -/
  rest : t = { s with v := t.v, pixels := t.pixels }
  /-- Of the registers, only `VF`. -/
  regs : ∀ r, r ≠ vf → t.getV r = s.getV r

theorem PlotFrame.refl (s : State) : PlotFrame s s := ⟨rfl, fun _ _ => rfl⟩

theorem PlotFrame.trans {s t u : State} (h1 : PlotFrame s t) (h2 : PlotFrame t u) : PlotFrame s u :=
  ⟨by rw [h2.rest, h1.rest], fun r hr => (h2.regs r hr).trans (h1.regs r hr)⟩

theorem PlotFrame.setFlag (s : State) (b : Byte) : PlotFrame s (s.setFlag b) :=
  ⟨rfl, fun r hr => by simp [hr]⟩

theorem PlotFrame.plotBit (s : State) (x y : RegIdx) (row : Nat) (b : Byte) (bit : Nat) :
    PlotFrame s (s.plotBit x y row b bit) :=
  ⟨rfl, fun r hr => by simp [State.plotBit, State.xorPixel, hr]⟩

theorem PlotFrame.plotBits (s : State) (x y : RegIdx) (row : Nat) (b : Byte) :
    ∀ c, PlotFrame s (s.plotBits x y row b c)
  | 0 => .refl s
  | c + 1 => (PlotFrame.plotBits s x y row b c).trans (.plotBit _ x y row b c)

theorem PlotFrame.plotRows (s : State) (x y : RegIdx) : ∀ n, PlotFrame s (s.plotRows x y n)
  | 0 => .refl s
  | n + 1 => (PlotFrame.plotRows s x y n).trans (.plotBits _ x y n _ 8)

theorem PlotFrame.readByte {s t : State} (h : PlotFrame s t) (a : Nat) : t.readByte a = s.readByte a := by
  rw [h.rest]; rfl

theorem PlotFrame.ea {s t : State} (h : PlotFrame s t) (k : Nat) : t.ea k = s.ea k := by
  rw [h.rest]; rfl

theorem PlotFrame.spriteRow {s t : State} (h : PlotFrame s t) {y : RegIdx} (hy : y ≠ vf) (row : Nat) :
    t.spriteRow y row = s.spriteRow y row := by
  simp [State.spriteRow, h.regs y hy]

theorem PlotFrame.spriteColumn {s t : State} (h : PlotFrame s t) {x : RegIdx} (hx : x ≠ vf) (bit : Nat) :
    t.spriteColumn x bit = s.spriteColumn x bit := by
  simp [State.spriteColumn, h.regs x hx]

/-! ## Distinct bits land on distinct pixels (44_display.md R112 (g)) -/

theorem State.spriteColumn_inj (s : State) (x : RegIdx) {i j : Nat} (hi : i < 8) (hj : j < 8)
    (h : s.spriteColumn x i = s.spriteColumn x j) : i = j := by
  simp only [State.spriteColumn, Fin.mk.injEq] at h; omega

theorem State.spriteRow_inj (s : State) (y : RegIdx) {i j : Nat} (hi : i < 32) (hj : j < 32)
    (h : s.spriteRow y i = s.spriteRow y j) : i = j := by
  simp only [State.spriteRow, Fin.mk.injEq] at h; omega

/-! ## What the plot writes, when `VF` is not a coordinate -/

theorem flagOf_or (a b : Bool) : flagOf a ||| flagOf b = flagOf (a || b) := by
  cases a <;> cases b <;> rfl

/-- The bit the plot takes is the bit of the number, counted from the most significant. -/
theorem spriteBit_eq (b : Byte) (bit : Nat) : spriteBit b bit = bitFromTheLeft b bit := by
  simp only [spriteBit, bitFromTheLeft, BitVec.getLsbD, Nat.testBit_eq_decide_div_mod_eq]

/-- `State.spriteBitAt` in the terms of the plot. -/
theorem State.spriteBitAt_eq (s : State) (x y : RegIdx) (row bit : Nat) (py : Fin 32) (px : Fin 64) :
    s.spriteBitAt x y row bit py px =
      (decide (s.spriteRow y row = py) && decide (s.spriteColumn x bit = px) &&
        spriteBit (s.readByte (s.ea row)) bit) := by
  simp only [State.spriteBitAt, spriteBit_eq, State.spriteRow, State.spriteColumn, State.ea, Fin.ext_iff]

/-- Some 1 bit among the first `c` of a sprite row lands on the pixel. -/
def State.bitsCover (s : State) (x y : RegIdx) (row : Nat) (b : Byte) (c : Nat) (py : Fin 32)
    (px : Fin 64) : Bool :=
  (List.range c).any fun bit =>
    decide (s.spriteRow y row = py) && decide (s.spriteColumn x bit = px) && spriteBit b bit

/-- Some 1 bit among the first `c` of a sprite row lands on a lit pixel. -/
def State.bitsHit (s : State) (x y : RegIdx) (row : Nat) (b : Byte) (c : Nat) : Bool :=
  (List.range c).any fun bit => spriteBit b bit && s.pixel (s.spriteRow y row) (s.spriteColumn x bit)

theorem State.bitsCover_at_next (s : State) (x y : RegIdx) (row : Nat) (b : Byte) {c : Nat} (hc : c < 8) :
    s.bitsCover x y row b c (s.spriteRow y row) (s.spriteColumn x c) = false := by
  simp only [State.bitsCover, List.any_eq_false, List.mem_range]
  intro bit hb
  have : s.spriteColumn x bit ≠ s.spriteColumn x c := fun e => by
    have := State.spriteColumn_inj s x (by omega) hc e; omega
  simp [this]

theorem State.pixel_plotBits (s : State) {x y : RegIdx} (hx : x ≠ vf) (hy : y ≠ vf) (row : Nat) (b : Byte)
    (qy : Fin 32) (qx : Fin 64) : ∀ {c : Nat}, c ≤ 8 →
    (s.plotBits x y row b c).pixel qy qx = xor (s.pixel qy qx) (s.bitsCover x y row b c qy qx)
  | 0, _ => by simp [State.plotBits, State.bitsCover]
  | c + 1, hc => by
    have hf := PlotFrame.plotBits s x y row b c
    have ih := fun qy qx => State.pixel_plotBits s hx hy row b qy qx (c := c) (by omega)
    rw [State.plotBits, State.plotBit, State.xorPixel, State.pixel_setPixel, hf.spriteRow hy,
      hf.spriteColumn hx]
    have hcov : s.bitsCover x y row b (c + 1) qy qx = (s.bitsCover x y row b c qy qx ||
        (decide (s.spriteRow y row = qy) && decide (s.spriteColumn x c = qx) && spriteBit b c)) := by
      simp [State.bitsCover, List.range_succ]
    rw [hcov]
    by_cases h : qy = s.spriteRow y row ∧ qx = s.spriteColumn x c
    · obtain ⟨rfl, rfl⟩ := h
      rw [if_pos ⟨rfl, rfl⟩, ih, State.bitsCover_at_next s x y row b (by omega)]
      simp
    · rw [if_neg h, State.setFlag_pixel, ih]
      have : (decide (s.spriteRow y row = qy) && decide (s.spriteColumn x c = qx)) = false := by
        by_contra hne
        simp only [Bool.not_eq_false, Bool.and_eq_true, decide_eq_true_eq] at hne
        exact h ⟨hne.1.symm, hne.2.symm⟩
      simp [this]

theorem State.flag_plotBits (s : State) {x y : RegIdx} (hx : x ≠ vf) (hy : y ≠ vf) (row : Nat) (b : Byte) :
    ∀ {c : Nat}, c ≤ 8 →
    (s.plotBits x y row b c).getV vf = s.getV vf ||| flagOf (s.bitsHit x y row b c)
  | 0, _ => by simp [State.plotBits, State.bitsHit, flagOf]
  | c + 1, hc => by
    have hf := PlotFrame.plotBits s x y row b c
    rw [State.plotBits, State.plotBit, State.xorPixel, State.setPixel_getV, State.getV_setFlag, if_pos rfl,
      collisionFlag, hf.spriteRow hy, hf.spriteColumn hx, State.flag_plotBits s hx hy row b (by omega),
      State.pixel_plotBits s hx hy row b _ _ (by omega), State.bitsCover_at_next s x y row b (by omega),
      BitVec.or_assoc, flagOf_or]
    simp [State.bitsHit, List.range_succ]

theorem State.rowCover_eq (s : State) (x y : RegIdx) (row : Nat) (py : Fin 32) (px : Fin 64) :
    s.bitsCover x y row (s.readByte (s.ea row)) 8 py px =
      (List.range 8).any fun bit => s.spriteBitAt x y row bit py px := by
  simp only [State.bitsCover, State.spriteBitAt_eq]

theorem State.spriteCovers_succ (s : State) (x y : RegIdx) (n : Nat) (py : Fin 32) (px : Fin 64) :
    s.spriteCovers x y (n + 1) py px =
      (s.spriteCovers x y n py px || s.bitsCover x y n (s.readByte (s.ea n)) 8 py px) := by
  simp [State.spriteCovers, State.rowCover_eq, List.range_succ]

/-- The rows before row `n` leave row `n`'s pixels alone. -/
theorem State.spriteCovers_next_row (s : State) (x y : RegIdx) {n : Nat} (hn : n < 32) (px : Fin 64) :
    s.spriteCovers x y n (s.spriteRow y n) px = false := by
  simp only [State.spriteCovers, List.any_eq_false, List.mem_range, Bool.not_eq_true]
  intro row hr
  have : s.spriteRow y row ≠ s.spriteRow y n := fun e => by
    have := State.spriteRow_inj s y (by omega) hn e; omega
  simp [State.spriteBitAt_eq, this]

theorem PlotFrame.bitsCover {s t : State} (h : PlotFrame s t) {x y : RegIdx} (hx : x ≠ vf) (hy : y ≠ vf)
    (row : Nat) (b : Byte) (c : Nat) (py : Fin 32) (px : Fin 64) :
    t.bitsCover x y row b c py px = s.bitsCover x y row b c py px := by
  simp [State.bitsCover, h.spriteRow hy, h.spriteColumn hx]

/-- A sprite XORs the pixels it covers and leaves the others. -/
theorem State.pixel_plotRows (s : State) {x y : RegIdx} (hx : x ≠ vf) (hy : y ≠ vf) (qy : Fin 32)
    (qx : Fin 64) : ∀ {n : Nat}, n ≤ 32 →
    (s.plotRows x y n).pixel qy qx = xor (s.pixel qy qx) (s.spriteCovers x y n qy qx)
  | 0, _ => by simp [State.plotRows, State.spriteCovers]
  | n + 1, hn => by
    have hf := PlotFrame.plotRows s x y n
    rw [State.plotRows, State.plotRow, State.pixel_plotBits _ hx hy _ _ _ _ (Nat.le_refl 8),
      State.pixel_plotRows s hx hy qy qx (by omega), hf.readByte, hf.ea, hf.bitsCover hx hy,
      State.spriteCovers_succ]
    by_cases h : qy = s.spriteRow y n
    · subst h
      rw [State.spriteCovers_next_row s x y (by omega)]
      simp
    · have : s.bitsCover x y n (s.readByte (s.ea n)) 8 qy qx = false := by
        simp [State.bitsCover, Ne.symm h]
      simp [this]

/-- Some 1 bit of the sprite's first `n` rows lands on a lit pixel. -/
def State.spriteHits (s : State) (x y : RegIdx) (n : Nat) : Bool :=
  (List.range n).any fun row => s.bitsHit x y row (s.readByte (s.ea row)) 8

/-- The flag after the first `n` rows of a sprite. -/
theorem State.flag_plotRows (s : State) {x y : RegIdx} (hx : x ≠ vf) (hy : y ≠ vf) :
    ∀ {n : Nat}, n ≤ 32 →
    (s.plotRows x y n).getV vf = s.getV vf ||| flagOf (s.spriteHits x y n)
  | 0, _ => by simp [State.plotRows, State.spriteHits, flagOf]
  | n + 1, hn => by
    have hf := PlotFrame.plotRows s x y n
    have hhit : ∀ b, (s.plotRows x y n).bitsHit x y n b 8 = s.bitsHit x y n b 8 := fun b => by
      simp [State.bitsHit, hf.spriteRow hy, hf.spriteColumn hx,
        State.pixel_plotRows s hx hy _ _ (show n ≤ 32 by omega),
        State.spriteCovers_next_row s x y (show n < 32 by omega)]
    rw [State.plotRows, State.plotRow, State.flag_plotBits _ hx hy _ _ (Nat.le_refl 8),
      State.flag_plotRows s hx hy (by omega), hf.readByte, hf.ea, hhit, BitVec.or_assoc, flagOf_or]
    simp [State.spriteHits, List.range_succ]

/-- A sprite hits something exactly when it covers a lit pixel. -/
theorem State.spriteHits_iff (s : State) (x y : RegIdx) (n : Nat) :
    s.spriteHits x y n = true ↔ ∃ py px, s.spriteCovers x y n py px = true ∧ s.pixel py px = true := by
  simp only [State.spriteHits, State.bitsHit, State.spriteCovers, State.spriteBitAt_eq, List.any_eq_true,
    List.mem_range, Bool.and_eq_true, decide_eq_true_eq]
  constructor
  · rintro ⟨row, hr, bit, hb, h1, h2⟩
    exact ⟨_, _, ⟨row, hr, bit, hb, ⟨rfl, rfl⟩, h1⟩, h2⟩
  · rintro ⟨py, px, ⟨row, hr, bit, hb, ⟨rfl, rfl⟩, h1⟩, h2⟩
    exact ⟨row, hr, bit, hb, h1, h2⟩

end Sys2Proof.Machine
end

