-- ==== Sys2Proof/Laws/Exec.lean ====
section
/-! SUPPORT. Laws of the meanings as a whole: which fields each may write, when one raises, and how the
frames of Safety.lean follow. -/

namespace Sys2Proof.Machine

/-! ## Frames -/

/-- A state that differs in the registers of `R` and in `pc` only. -/
theorem OnlyRegs.of_update {R : RegIdx → Prop} {s t : State} (hv : ∀ r, ¬ R r → t.getV r = s.getV r)
    (h : t = { s with v := t.v, pc := t.pc }) : OnlyRegs R s t := by
  have e := h
  constructor
  · exact hv
  all_goals
    rw [e]
    try first
      | rfl
      | exact ⟨rfl, fun _ => rfl⟩
      | exact ⟨rfl, rfl⟩
      | exact fun _ => rfl
      | exact ⟨fun _ _ => rfl, rfl⟩
      | exact ⟨rfl, rfl, rfl⟩

/-- A plot followed by `dirty` writes the framebuffer and `VF` only. -/
theorem PlotFrame.onlyScreen {s t : State} (h : PlotFrame s t) : OnlyScreen (· = vf) s t.markDirty := by
  have e := h.rest
  constructor
  · intro r hr; simp [h.regs r hr]
  all_goals
    rw [e]
    try first
      | rfl
      | exact ⟨rfl, fun _ => rfl⟩
      | exact ⟨rfl, rfl⟩
      | exact fun _ => rfl
      | exact ⟨rfl, rfl, rfl⟩

/-- Taking a fault at `pc` itself. -/
theorem FaultTaken.takeFault (s : State) (kind : FaultKind) (info : Word) :
    FaultTaken s (s.takeFault kind s.pc info) { kind := kind, pc := s.pc, info := info } := by
  constructor <;> simp [KeepsRegs, KeepsStack, KeepsTimers, KeepsScreen, KeepsMemory]

/-- A fault of the executing instruction. -/
theorem FaultTaken.raise (s : State) (kind : FaultKind) (info : Word) :
    FaultTaken s (s.raise kind info) { kind := kind, pc := s.pc - 2#16, info := info } := by
  constructor <;> simp [KeepsRegs, KeepsStack, KeepsTimers, KeepsScreen, KeepsMemory]

theorem SameCore.refl (s : State) : SameCore s s := by
  constructor <;> simp [KeepsRegs, KeepsStack, KeepsTimers, KeepsScreen, KeepsMemory, KeepsLatches]

theorem SameCore.trans {s t u : State} (h : SameCore s t) (g : SameCore t u) : SameCore s u where
  regs r := (g.regs r).trans (h.regs r)
  index := g.index.trans h.index
  counter := g.counter.trans h.counter
  stack := ⟨g.stack.1.trans h.stack.1, fun k => (g.stack.2 k).trans (h.stack.2 k)⟩
  timers := ⟨g.timers.1.trans h.timers.1, g.timers.2.trans h.timers.2⟩
  screen := ⟨fun py px => (g.screen.1 py px).trans (h.screen.1 py px), g.screen.2.trans h.screen.2⟩
  memory a := (g.memory a).trans (h.memory a)
  latches := ⟨g.latches.1.trans h.latches.1, g.latches.2.trans h.latches.2⟩

/-! ## The skips -/

theorem State.skipIf_pc (s : State) (c : Bool) :
    (s.skipIf c).pc = if c then s.pc + 2#16 else s.pc := by cases c <;> rfl

theorem State.skipIf_decide_pc (s : State) (c : Prop) [Decidable c] :
    (s.skipIf (decide c)).pc = if c then s.pc + 2#16 else s.pc := by
  by_cases h : c <;> simp [h, State.skipIf, State.skip]

theorem OnlyPc.skipIf (s : State) (c : Bool) : OnlyPc s (s.skipIf c) :=
  OnlyRegs.of_update (by intro r _; simp) (by cases c <;> rfl)

/-! ## Which fields an operation writes -/

theorem State.skipIf_eq (s : State) (c : Bool) : s.skipIf c = { s with pc := (s.skipIf c).pc } := by
  cases c <;> rfl

theorem State.push_eq (s : State) (w : Word) :
    s.push w = { s with stack := (s.push w).stack, sp := (s.push w).sp } := by
  unfold State.push; split <;> rfl

theorem State.writeByte_eq (s : State) (a : Nat) (b : Byte) :
    s.writeByte a b = { s with mem := (s.writeByte a b).mem } := by
  unfold State.writeByte; split <;> rfl

theorem State.storeDigits_eq (s : State) (b : Byte) :
    s.storeDigits b = { s with mem := (s.storeDigits b).mem } := by
  unfold State.storeDigits; rw [State.writeByte_eq, State.writeByte_eq, State.writeByte_eq]

theorem State.awaitKey_eq (s : State) (x : RegIdx) :
    s.awaitKey x = { s with v := (s.awaitKey x).v, wait := (s.awaitKey x).wait } := by
  unfold State.awaitKey; split <;> rfl

/-- A whole Dxyn writes the registers, the framebuffer and `dirty` only. -/
theorem State.draw_eq (s : State) (x y : RegIdx) (n : Nat) :
    ((s.setFlag 0#8).plotRows x y n).markDirty =
      { s with
        v := ((s.setFlag 0#8).plotRows x y n).v
        pixels := ((s.setFlag 0#8).plotRows x y n).pixels
        dirty := true } := by
  have := ((PlotFrame.setFlag s 0#8).trans (PlotFrame.plotRows _ x y n)).rest
  conv => lhs; rw [this]
  rfl

/-! ## The meanings -/

/-- Every instruction raises a fault, or writes only fields of its own and leaves the fault latch, the
`active` bits, the host's inputs and the outputs alone. -/
theorem exec_cases {i : Instr} {s t : State} (h : exec i s = .next t) :
    (∃ kind info, t = s.raise kind info) ∨
    (∃ v a p stk sp px d dv sv m w,
      t = { s with
        v := v, i := a, pc := p, stack := stk, sp := sp, dt := { s.dt with value := dv },
        st := { s.st with value := sv }, pixels := px, dirty := d, mem := m, wait := w } ∧
      (a = s.i ∨ (∃ addr, i = .ldI addr) ∨ (∃ x, i = .ldIVx x) ∨ ∃ x, i = .ldFVx x) ∧
      ((stk = s.stack ∧ sp = s.sp) ∨ (∃ addr, i = .call addr) ∨ i = .ret) ∧
      (dv = s.dt.value ∨ ∃ x, i = .ldDtVx x) ∧ (sv = s.st.value ∨ ∃ x, i = .ldStVx x) ∧
      ((px = s.pixels ∧ d = s.dirty) ∨ (d = true ∧ (i = .cls ∨ ∃ x y n, i = .drw x y n))) ∧
      (m = s.mem ∨ (∃ x, i = .ldBVx x) ∨ ∃ x, i = .ldMemVx x) ∧ (w = s.wait ∨ ∃ x, i = .ldVxK x)) := by
  cases i <;>
    simp only [exec, execRet, execCall, execDrw, execLdBVx, execLdMemVx, execLdVxMem] at h
  all_goals first
    | (right; cases h
       exact ⟨_, _, _, _, _, _, _, _, _, _, _, rfl, by
         simp [State.setV, State.setFlag]⟩)
    | (right; cases h; (first | rw [State.skipIf_eq] | rw [State.awaitKey_eq])
       exact ⟨_, _, _, _, _, _, _, _, _, _, _, rfl, by simp⟩)
    | (split at h
       · cases h
         first
           | exact .inl ⟨_, _, rfl⟩
           | (right
              (first | rw [State.storeRegs_eq] | rw [State.loadRegs_eq] | rw [State.draw_eq] | rw [State.storeDigits_eq])
              exact ⟨_, _, _, _, _, _, _, _, _, _, _, rfl, by simp⟩)
       · cases h
         first
           | exact .inl ⟨_, _, rfl⟩
           | (right; exact ⟨_, _, _, _, _, _, _, _, _, _, _, rfl, by simp⟩)
           | (right; rw [State.push_eq]; exact ⟨_, _, _, _, _, _, _, _, _, _, _, rfl, by simp⟩))

end Sys2Proof.Machine
end

