-- ==== Sys2Proof/Laws/PerInstr.lean ====
section
/-! SUPPORT. The family Layout: the word of every instruction is one that a row of the opcode table covers. -/

namespace Sys2Proof.Laws

theorem formatA_and (op m : BitVec 4) (addr : Addr12) :
    formatA op addr &&& (m ++ 0#12 : BitVec 16) = ((op &&& m) ++ 0#12 : BitVec 16) := by
  unfold formatA
  rw [BitVec.and_append]
  simp

theorem formatXK_and (op m1 : BitVec 4) (x : RegIdx) (kk m2 : Byte) :
    formatXK op x kk &&& ((m1 ++ 0#4 : BitVec 8) ++ m2 : BitVec 16) =
      (((op &&& m1) ++ 0#4 : BitVec 8) ++ (kk &&& m2) : BitVec 16) := by
  unfold formatXK
  rw [BitVec.and_append, BitVec.and_append]
  simp

theorem formatXYN_and (op m1 m2 : BitVec 4) (x y n : Fin 16) :
    formatXYN op x y n &&& ((m1 ++ 0#4 : BitVec 8) ++ (0#4 ++ m2 : BitVec 8) : BitVec 16) =
      (((op &&& m1) ++ 0#4 : BitVec 8) ++ (0#4 ++ (nibbleOf n &&& m2) : BitVec 8) : BitVec 16) := by
  unfold formatXYN
  rw [BitVec.and_append, BitVec.and_append, BitVec.and_append]
  simp

namespace Layout

/-- The instruction's word is covered by a row of the opcode table. -/
def Statement (i : Instr) : Prop := ∃ r ∈ opcodeTable, r.covers (encodeWord i) = true

theorem of_row {i : Instr} (r : OpcodeRow) (hr : r ∈ opcodeTable) (h : encodeWord i &&& r.mask = r.value) :
    Statement i := ⟨r, hr, by simpa [OpcodeRow.covers] using h⟩

theorem cls : Statement .cls :=
  of_row ⟨0x00E0#16, 0xFFFF#16⟩ (by decide) rfl

theorem ret : Statement .ret :=
  of_row ⟨0x00EE#16, 0xFFFF#16⟩ (by decide) rfl

theorem jp (addr : Addr12) : Statement (.jp addr) :=
  of_row ⟨0x1000#16, 0xF000#16⟩ (by decide) (formatA_and _ 0xF#4 addr)

theorem call (addr : Addr12) : Statement (.call addr) :=
  of_row ⟨0x2000#16, 0xF000#16⟩ (by decide) (formatA_and _ 0xF#4 addr)

theorem seImm (x : RegIdx) (kk : Byte) : Statement (.seImm x kk) :=
  of_row ⟨0x3000#16, 0xF000#16⟩ (by decide) ((formatXK_and _ 0xF#4 x kk 0x00#8).trans (by simp))

theorem sneImm (x : RegIdx) (kk : Byte) : Statement (.sneImm x kk) :=
  of_row ⟨0x4000#16, 0xF000#16⟩ (by decide) ((formatXK_and _ 0xF#4 x kk 0x00#8).trans (by simp))

theorem seReg (x y : RegIdx) : Statement (.seReg x y) :=
  of_row ⟨0x5000#16, 0xF00F#16⟩ (by decide) (formatXYN_and _ 0xF#4 0xF#4 x y _)

theorem ldImm (x : RegIdx) (kk : Byte) : Statement (.ldImm x kk) :=
  of_row ⟨0x6000#16, 0xF000#16⟩ (by decide) ((formatXK_and _ 0xF#4 x kk 0x00#8).trans (by simp))

theorem addImm (x : RegIdx) (kk : Byte) : Statement (.addImm x kk) :=
  of_row ⟨0x7000#16, 0xF000#16⟩ (by decide) ((formatXK_and _ 0xF#4 x kk 0x00#8).trans (by simp))

theorem ldReg (x y : RegIdx) : Statement (.ldReg x y) :=
  of_row ⟨0x8000#16, 0xF00F#16⟩ (by decide) (formatXYN_and _ 0xF#4 0xF#4 x y _)

theorem orReg (x y : RegIdx) : Statement (.orReg x y) :=
  of_row ⟨0x8001#16, 0xF00F#16⟩ (by decide) (formatXYN_and _ 0xF#4 0xF#4 x y _)

theorem andReg (x y : RegIdx) : Statement (.andReg x y) :=
  of_row ⟨0x8002#16, 0xF00F#16⟩ (by decide) (formatXYN_and _ 0xF#4 0xF#4 x y _)

theorem xorReg (x y : RegIdx) : Statement (.xorReg x y) :=
  of_row ⟨0x8003#16, 0xF00F#16⟩ (by decide) (formatXYN_and _ 0xF#4 0xF#4 x y _)

theorem addReg (x y : RegIdx) : Statement (.addReg x y) :=
  of_row ⟨0x8004#16, 0xF00F#16⟩ (by decide) (formatXYN_and _ 0xF#4 0xF#4 x y _)

theorem subReg (x y : RegIdx) : Statement (.subReg x y) :=
  of_row ⟨0x8005#16, 0xF00F#16⟩ (by decide) (formatXYN_and _ 0xF#4 0xF#4 x y _)

theorem shr (x y : RegIdx) : Statement (.shr x y) :=
  of_row ⟨0x8006#16, 0xF00F#16⟩ (by decide) (formatXYN_and _ 0xF#4 0xF#4 x y _)

theorem subnReg (x y : RegIdx) : Statement (.subnReg x y) :=
  of_row ⟨0x8007#16, 0xF00F#16⟩ (by decide) (formatXYN_and _ 0xF#4 0xF#4 x y _)

theorem shl (x y : RegIdx) : Statement (.shl x y) :=
  of_row ⟨0x800E#16, 0xF00F#16⟩ (by decide) (formatXYN_and _ 0xF#4 0xF#4 x y _)

theorem sneReg (x y : RegIdx) : Statement (.sneReg x y) :=
  of_row ⟨0x9000#16, 0xF00F#16⟩ (by decide) (formatXYN_and _ 0xF#4 0xF#4 x y _)

theorem ldI (addr : Addr12) : Statement (.ldI addr) :=
  of_row ⟨0xA000#16, 0xF000#16⟩ (by decide) (formatA_and _ 0xF#4 addr)

theorem jpV0 (addr : Addr12) : Statement (.jpV0 addr) :=
  of_row ⟨0xB000#16, 0xF000#16⟩ (by decide) (formatA_and _ 0xF#4 addr)

theorem rnd (x : RegIdx) (kk : Byte) : Statement (.rnd x kk) :=
  of_row ⟨0xC000#16, 0xF000#16⟩ (by decide) ((formatXK_and _ 0xF#4 x kk 0x00#8).trans (by simp))

theorem drw (x y : RegIdx) (n : Fin 16) : Statement (.drw x y n) :=
  of_row ⟨0xD000#16, 0xF000#16⟩ (by decide) ((formatXYN_and _ 0xF#4 0x0#4 x y n).trans (by simp))

theorem skp (x : RegIdx) : Statement (.skp x) :=
  of_row ⟨0xE09E#16, 0xF0FF#16⟩ (by decide) (formatXK_and _ 0xF#4 x _ 0xFF#8)

theorem sknp (x : RegIdx) : Statement (.sknp x) :=
  of_row ⟨0xE0A1#16, 0xF0FF#16⟩ (by decide) (formatXK_and _ 0xF#4 x _ 0xFF#8)

theorem ldVxDt (x : RegIdx) : Statement (.ldVxDt x) :=
  of_row ⟨0xF007#16, 0xF0FF#16⟩ (by decide) (formatXK_and _ 0xF#4 x _ 0xFF#8)

theorem ldVxK (x : RegIdx) : Statement (.ldVxK x) :=
  of_row ⟨0xF00A#16, 0xF0FF#16⟩ (by decide) (formatXK_and _ 0xF#4 x _ 0xFF#8)

theorem ldDtVx (x : RegIdx) : Statement (.ldDtVx x) :=
  of_row ⟨0xF015#16, 0xF0FF#16⟩ (by decide) (formatXK_and _ 0xF#4 x _ 0xFF#8)

theorem ldStVx (x : RegIdx) : Statement (.ldStVx x) :=
  of_row ⟨0xF018#16, 0xF0FF#16⟩ (by decide) (formatXK_and _ 0xF#4 x _ 0xFF#8)

theorem ldIVx (x : RegIdx) : Statement (.ldIVx x) :=
  of_row ⟨0xF01E#16, 0xF0FF#16⟩ (by decide) (formatXK_and _ 0xF#4 x _ 0xFF#8)

theorem ldFVx (x : RegIdx) : Statement (.ldFVx x) :=
  of_row ⟨0xF029#16, 0xF0FF#16⟩ (by decide) (formatXK_and _ 0xF#4 x _ 0xFF#8)

theorem ldBVx (x : RegIdx) : Statement (.ldBVx x) :=
  of_row ⟨0xF033#16, 0xF0FF#16⟩ (by decide) (formatXK_and _ 0xF#4 x _ 0xFF#8)

theorem ldMemVx (x : RegIdx) : Statement (.ldMemVx x) :=
  of_row ⟨0xF055#16, 0xF0FF#16⟩ (by decide) (formatXK_and _ 0xF#4 x _ 0xFF#8)

theorem ldVxMem (x : RegIdx) : Statement (.ldVxMem x) :=
  of_row ⟨0xF065#16, 0xF0FF#16⟩ (by decide) (formatXK_and _ 0xF#4 x _ 0xFF#8)

end Layout

end Sys2Proof.Laws
end

