-- ==== Sys2Proof/Tests/Slice0.lean ====
section
/-! SUPPORT. The model's own tests: what the well-formedness checks refuse, words written out from the
encodings of the spec, one step of each instruction on the vectors of 95_test_vectors.md, and for every
obligation with hypotheses a witness that meets them. -/

namespace Sys2Proof.Tests

open Sys2Proof.Machine

/-! ## Helpers -/

/-- Reset with a word at 0x200. -/
def word (w : Word) : State := State.reset.placeWord w

/-- A state with some registers set. -/
def regs (rs : List (RegIdx × Byte)) (s : State) : State := rs.foldl (fun s r => s.setV r.1 r.2) s

/-- A state with some bytes of memory set. -/
def bytes (bs : List (Nat × Byte)) (s : State) : State := bs.foldl (fun s b => s.writeByte b.1 b.2) s

/-- A state with `I` set. -/
def index (a : Word) (s : State) : State := s.setI a

/-- A state whose next cycle has these inputs. -/
def input (i : HostInput) (s : State) : State := { s with inputs := [i] }

/-- No key down, no key event, random byte 0. -/
def noKeys : HostInput := { keys := 0#16, keyEvent := none, rand := 0#8 }

/-- Whether a step answers a next state of which `p` holds. -/
def after (p : State → Bool) (s : State) : Bool :=
  match step s with
  | .next t => p t
  | _ => false

/-- Whether a state holds these register values. -/
def has (rs : List (RegIdx × Byte)) (t : State) : Bool := rs.all fun r => decide (t.getV r.1 = r.2)

/-- Whether a state reads these bytes. -/
def reads (bs : List (Nat × Byte)) (t : State) : Bool := bs.all fun b => decide (t.readByte b.1 = b.2)

/-- Whether `pc` is this. -/
def pcIs (a : Word) (t : State) : Bool := decide (t.pc = a)

/-- Whether the lit pixels are exactly these, as (`py`, `px`). -/
def litIs (ps : List (Fin 32 × Fin 64)) (t : State) : Bool :=
  decide (t.pixels.toList.map (·.toList) =
    (ps.foldl (fun s p => s.setPixel p.1 p.2 true) State.reset).pixels.toList.map (·.toList))

/-! ## Well-formedness -/

/-- TR4: an image of 3585 bytes is refused, one of 3584 is not. -/
theorem test_image_too_long_is_refused : imageWellFormed (List.replicate 3585 0#8) = false := by
  simp only [imageWellFormed, List.length_replicate]; decide

theorem test_image_that_fits_is_accepted : imageWellFormed (List.replicate 3584 0#8) = true := by
  simp only [imageWellFormed, List.length_replicate]; decide

/-- The types leave no ill-formed instruction; the fields at their greatest values are legal (R10, R56). -/
theorem test_greatest_fields_are_well_formed :
    (Instr.drw 15 15 15).wellFormed = true ∧ (Instr.ldMemVx 15).wellFormed = true ∧
    (Instr.jp 0xFFF#12).wellFormed = true := by decide

/-! ## Decoding: words written out bit by bit from the encodings of 30_encoding.md -/

/-- R58. -/
theorem test_decode_group_0 :
    decodeWord 0b0000000011100000#16 = .ok .cls ∧
    decodeWord 0b0000000011101110#16 = .ok .ret := by decide

/-- R57. -/
theorem test_decode_addresses :
    decodeWord 0b0001101010111100#16 = .ok (.jp 0xABC#12) ∧
    decodeWord 0b0010001100000001#16 = .ok (.call 0x301#12) ∧
    decodeWord 0b1010111111111110#16 = .ok (.ldI 0xFFE#12) ∧
    decodeWord 0b1011000000000001#16 = .ok (.jpV0 0x001#12) := by decide

/-- R57. -/
theorem test_decode_immediates :
    decodeWord 0b0011000101000010#16 = .ok (.seImm 1 0x42#8) ∧
    decodeWord 0b0100111010000001#16 = .ok (.sneImm 14 0x81#8) ∧
    decodeWord 0b0110001110101011#16 = .ok (.ldImm 3 0xAB#8) ∧
    decodeWord 0b0111111100000001#16 = .ok (.addImm 15 0x01#8) ∧
    decodeWord 0b1100010000001111#16 = .ok (.rnd 4 0x0F#8) := by decide

/-- R59, R60. -/
theorem test_decode_register_pairs :
    decodeWord 0b0101000100100000#16 = .ok (.seReg 1 2) ∧
    decodeWord 0b1001100000010000#16 = .ok (.sneReg 8 1) ∧
    decodeWord 0b1000000100100000#16 = .ok (.ldReg 1 2) ∧
    decodeWord 0b1000001000010001#16 = .ok (.orReg 2 1) ∧
    decodeWord 0b1000010010000010#16 = .ok (.andReg 4 8) ∧
    decodeWord 0b1000100001000011#16 = .ok (.xorReg 8 4) := by decide

/-- R60. -/
theorem test_decode_arithmetic :
    decodeWord 0b1000000100100100#16 = .ok (.addReg 1 2) ∧
    decodeWord 0b1000000111110101#16 = .ok (.subReg 1 15) ∧
    decodeWord 0b1000101010110110#16 = .ok (.shr 10 11) ∧
    decodeWord 0b1000111100010111#16 = .ok (.subnReg 15 1) ∧
    decodeWord 0b1000000100101110#16 = .ok (.shl 1 2) := by decide

/-- R57, R61. -/
theorem test_decode_display_and_keys :
    decodeWord 0b1101010110100011#16 = .ok (.drw 5 10 3) ∧
    decodeWord 0b1110001010011110#16 = .ok (.skp 2) ∧
    decodeWord 0b1110010010100001#16 = .ok (.sknp 4) := by decide

/-- R62. -/
theorem test_decode_group_F :
    decodeWord 0b1111000100000111#16 = .ok (.ldVxDt 1) ∧
    decodeWord 0b1111001000001010#16 = .ok (.ldVxK 2) ∧
    decodeWord 0b1111001100010101#16 = .ok (.ldDtVx 3) ∧
    decodeWord 0b1111010000011000#16 = .ok (.ldStVx 4) ∧
    decodeWord 0b1111010100011110#16 = .ok (.ldIVx 5) ∧
    decodeWord 0b1111011000101001#16 = .ok (.ldFVx 6) ∧
    decodeWord 0b1111011100110011#16 = .ok (.ldBVx 7) ∧
    decodeWord 0b1111100001010101#16 = .ok (.ldMemVx 8) ∧
    decodeWord 0b1111100101100101#16 = .ok (.ldVxMem 9) := by decide

/-- TE2: the byte at the lower address is the high byte (20_memory.md R44). -/
theorem test_decode_takes_the_high_byte_first :
    decode [0x12#8, 0x34#8, 0x99#8] = .ok (.jp 0x234#12, [0x99#8]) := by decide

/-- TE4, TE7, TE8, TE9, TE10: words that are no instruction (R63). -/
theorem test_decode_rejects_what_is_no_instruction :
    ([0x0000#16, 0x00E1#16, 0x00FF#16, 0x0123#16, 0x5121#16, 0x9125#16, 0x8128#16, 0x812D#16, 0x812F#16] ++
      [0xE19F#16, 0xE100#16, 0xF100#16, 0xF108#16, 0xF11F#16, 0xF175#16, 0xF185#16]).all
      (fun w => decide (decodeWord w = .error (.unsupportedOpcode w))) = true := by decide

/-- One byte is no word. -/
theorem test_decode_rejects_a_truncated_word : decode [0x12#8] = .error .truncated := by decide

/-- The host's numbering: bits 15 to 8 are the byte at the lower address. -/
theorem test_decode_table_word : decodeTableWord 16 0xD5A3 = some (.drw 5 10 3) := by decide

/-- The encoder, against the same encodings. -/
theorem test_encode :
    encode (.drw 5 10 3) = [0xD5A3#16] ∧ encodeBytes (.shl 1 2) = [0x81#8, 0x2E#8] := by decide

/-! ## One step of each instruction (95_test_vectors.md section 2) -/

/-- TC1. -/
theorem test_jp : after (fun t => pcIs 0x0ABC#16 t)
    (word 0x1ABC#16) = true := by decide

/-- TC4. -/
theorem test_call : after (fun t => pcIs 0x0300#16 t && decide (t.sp = 1 ∧ t.stackEntry 0 = 0x0202#16))
    (word 0x2300#16) = true := by decide

/-- TC5. -/
theorem test_ret : after (fun t => pcIs 0x0456#16 t && decide (t.sp = 1 ∧ t.stackEntry 1 = 0x0456#16))
    ({ word 0x00EE#16 with sp := 2, stack := ((Vector.replicate 16 0#16).set 0 0x0202#16).set 1 0x0456#16 }) = true := by decide

/-- TF1. -/
theorem test_ret_with_no_call : after (fun t => decide (t.fault = some ⟨.stackUnderflow, 0x0200#16, 0#16⟩ ∧ t.out.fault = t.fault) && pcIs 0x0200#16 t)
    (word 0x00EE#16) = true := by decide

/-- TF2. -/
theorem test_call_with_a_full_stack : after (fun t => decide (t.fault = some ⟨.stackOverflow, 0x0200#16, 0#16⟩ ∧ t.sp = 16) && pcIs 0x0200#16 t)
    ({ word 0x2200#16 with sp := 16 }) = true := by decide

/-- TC6. -/
theorem test_se_imm_equal : after (fun t => pcIs 0x0204#16 t)
    (regs [(1, 0x42#8)] (word 0x3142#16)) = true := by decide

/-- TC7. -/
theorem test_se_imm_unequal : after (fun t => pcIs 0x0202#16 t)
    (regs [(1, 0x43#8)] (word 0x3142#16)) = true := by decide

/-- TC8. -/
theorem test_sne_imm_equal : after (fun t => pcIs 0x0202#16 t)
    (regs [(1, 0x42#8)] (word 0x4142#16)) = true := by decide

/-- TC9. -/
theorem test_sne_imm_unequal : after (fun t => pcIs 0x0204#16 t)
    (regs [(1, 0x43#8)] (word 0x4142#16)) = true := by decide

/-- TC10. -/
theorem test_se_reg_equal : after (fun t => pcIs 0x0204#16 t)
    (regs [(1, 0x09#8), (2, 0x09#8)] (word 0x5120#16)) = true := by decide

/-- TC11. -/
theorem test_se_reg_unequal : after (fun t => pcIs 0x0202#16 t)
    (regs [(1, 0x09#8), (2, 0x0A#8)] (word 0x5120#16)) = true := by decide

/-- TC13. -/
theorem test_sne_reg_unequal : after (fun t => pcIs 0x0204#16 t)
    (regs [(1, 0x09#8), (2, 0x0A#8)] (word 0x9120#16)) = true := by decide

/-- TC14. -/
theorem test_sne_reg_same_register : after (fun t => pcIs 0x0202#16 t)
    (regs [(3, 0x5A#8)] (word 0x9330#16)) = true := by decide

/-- TC16. -/
theorem test_jp_v0 : after (fun t => pcIs 0x10FE#16 t)
    (regs [(0, 0xFF#8)] (word 0xBFFF#16)) = true := by decide

/-- TA1. -/
theorem test_ld_imm : after (fun t => has [(3, 0xAB#8)] t && pcIs 0x0202#16 t)
    (word 0x63AB#16) = true := by decide

/-- TA2. -/
theorem test_ld_imm_writes_vf_as_data : after (fun t => has [(15, 0x07#8)] t)
    (word 0x6F07#16) = true := by decide

/-- TA3. -/
theorem test_add_imm_wraps_without_carry : after (fun t => has [(1, 0x01#8), (15, 0x00#8)] t)
    (regs [(1, 0xFF#8)] (word 0x7102#16)) = true := by decide

/-- TA5. -/
theorem test_ld_reg : after (fun t => has [(1, 0x5A#8), (2, 0x5A#8)] t)
    (regs [(2, 0x5A#8)] (word 0x8120#16)) = true := by decide

/-- TA6. -/
theorem test_or_reg_keeps_vf : after (fun t => has [(1, 0xFC#8), (15, 0x01#8)] t)
    (regs [(1, 0xF0#8), (2, 0x0C#8), (15, 0x01#8)] (word 0x8121#16)) = true := by decide

/-- TA7. -/
theorem test_and_reg : after (fun t => has [(1, 0x30#8), (2, 0x3C#8)] t)
    (regs [(1, 0xF0#8), (2, 0x3C#8)] (word 0x8122#16)) = true := by decide

/-- TA8. -/
theorem test_xor_reg : after (fun t => has [(1, 0xCC#8), (2, 0x3C#8)] t)
    (regs [(1, 0xF0#8), (2, 0x3C#8)] (word 0x8123#16)) = true := by decide

/-- TA11, S2. -/
theorem test_add_reg_carries : after (fun t => has [(1, 0x00#8), (2, 0x01#8), (15, 0x01#8)] t && pcIs 0x0202#16 t)
    (regs [(1, 0xFF#8), (2, 0x01#8)] (word 0x8124#16)) = true := by decide

/-- TA14. -/
theorem test_add_reg_into_vf : after (fun t => has [(15, 0x10#8), (1, 0x20#8)] t)
    (regs [(15, 0xF0#8), (1, 0x20#8)] (word 0x8F14#16)) = true := by decide

/-- TA18. -/
theorem test_sub_reg_borrows : after (fun t => has [(1, 0x01#8), (15, 0x00#8)] t)
    (regs [(1, 0x00#8), (2, 0xFF#8)] (word 0x8125#16)) = true := by decide

/-- TA19. -/
theorem test_sub_reg_subtracts_the_new_flag : after (fun t => has [(1, 0x04#8), (15, 0x01#8)] t)
    (regs [(1, 0x05#8), (15, 0x03#8)] (word 0x81F5#16)) = true := by decide

/-- TA23. -/
theorem test_shr_shifts_vx : after (fun t => has [(1, 0x02#8), (15, 0x01#8)] t)
    (regs [(1, 0x05#8)] (word 0x8106#16)) = true := by decide

/-- TA24. -/
theorem test_shr_ignores_vy : after (fun t => has [(1, 0x7F#8), (2, 0x01#8), (15, 0x00#8)] t)
    (regs [(1, 0xFE#8), (2, 0x01#8)] (word 0x8126#16)) = true := by decide

/-- TA27. -/
theorem test_subn_reg : after (fun t => has [(1, 0xFB#8), (2, 0x04#8), (15, 0x00#8)] t)
    (regs [(1, 0x09#8), (2, 0x04#8)] (word 0x8127#16)) = true := by decide

/-- TA31. -/
theorem test_subn_reg_into_vf : after (fun t => has [(15, 0x08#8), (1, 0x09#8)] t)
    (regs [(15, 0x02#8), (1, 0x09#8)] (word 0x8F17#16)) = true := by decide

/-- TA33. -/
theorem test_shl_shifts_vx : after (fun t => has [(1, 0x02#8), (15, 0x01#8)] t)
    (regs [(1, 0x81#8)] (word 0x810E#16)) = true := by decide

/-- TA35. -/
theorem test_shl_of_vf : after (fun t => has [(15, 0x02#8)] t)
    (regs [(15, 0xFF#8)] (word 0x8F0E#16)) = true := by decide

/-- TA37. -/
theorem test_rnd : after (fun t => has [(3, 0x07#8)] t)
    (input { noKeys with rand := 0xA7#8 } (word 0xC30F#16)) = true := by decide

/-- TM2. -/
theorem test_ld_i : after (fun t => decide (t.i = 0x0FFF#16))
    (word 0xAFFF#16) = true := by decide

/-- TM3. -/
theorem test_ld_i_vx_assigns : after (fun t => decide (t.i = 0x0010#16))
    (regs [(2, 0x10#8)] (index 0x0300#16 (word 0xF21E#16))) = true := by decide

/-- TM6. -/
theorem test_ld_f_has_no_nibble_mask : after (fun t => decide (t.i = 0x04FB#16))
    (regs [(3, 0xFF#8)] (word 0xF329#16)) = true := by decide

/-- TM8. -/
theorem test_ld_b : after (fun t => reads [(0x300, 0x01#8), (0x301, 0x02#8), (0x302, 0x08#8)] t && decide (t.i = 0x0300#16))
    (regs [(3, 0x80#8)] (index 0x0300#16 (word 0xF333#16))) = true := by decide

/-- TM12. -/
theorem test_ld_b_beyond_memory : after (fun t => decide (t.fault = some ⟨.memoryOutOfBounds, 0x0200#16, 0x1000#16⟩) && reads [(0xFFE, 0x00#8), (0xFFF, 0x00#8)] t)
    (regs [(0, 0xFF#8)] (index 0x0FFE#16 (word 0xF033#16))) = true := by decide

/-- TM13. -/
theorem test_ld_mem_vx : after (fun t => reads [(0x300, 0x11#8), (0x301, 0x22#8), (0x302, 0x33#8), (0x303, 0x00#8)] t && decide (t.i = 0x0300#16))
    (regs [(0, 0x11#8), (1, 0x22#8), (2, 0x33#8), (3, 0x44#8)] (index 0x0300#16 (word 0xF255#16))) = true := by decide

/-- TM15. -/
theorem test_ld_mem_vx_beyond_memory : after (fun t => decide (t.fault = some ⟨.memoryOutOfBounds, 0x0200#16, 0x1000#16⟩) && reads [(0xFF1, 0x00#8)] t)
    (regs [(0, 0xA0#8)] (index 0x0FF1#16 (word 0xFF55#16))) = true := by decide

/-- TM17. -/
theorem test_ld_vx_mem : after (fun t => has [(0, 0x20#8), (1, 0x60#8), (2, 0x20#8), (3, 0x77#8)] t && decide (t.i = 0x0005#16))
    (regs [(3, 0x77#8)] (index 0x0005#16 (word 0xF265#16))) = true := by decide

/-- TM18. -/
theorem test_ld_vx_mem_beyond_memory : after (fun t => decide (t.fault = some ⟨.memoryOutOfBounds, 0x0200#16, 0x1000#16⟩) && has [(0, 0x5A#8)] t)
    (regs [(0, 0x5A#8)] (index 0x0FFF#16 (word 0xF165#16))) = true := by decide

/-- TD1. -/
theorem test_cls : after (fun t => litIs [] t && decide (t.out.frameNotify = true ∧ t.dirty = false))
    (((word 0x00E0#16).setPixel 5 5 true).setPixel 31 63 true) = true := by decide

/-- TD7. -/
theorem test_drw_wraps_around : after (fun t => litIs [(0, 60), (31, 60)] t && has [(15, 0x00#8)] t)
    (bytes [(0x300, 0x80#8), (0x301, 0x80#8)] (regs [(0, 0x7C#8), (1, 0xFF#8)] (index 0x0300#16 (word 0xD012#16)))) = true := by decide

/-- TD10. -/
theorem test_drw_at_vf : after (fun t => litIs [(2, 2)] t && decide (t.out.frameNotify = true) && has [(15, 0x01#8)] t)
    (bytes [(0x300, 0xC0#8)] (regs [(15, 0x05#8), (1, 0x02#8)] (index 0x0300#16 ((word 0xDF11#16).setPixel 2 0 true)))) = true := by decide

/-- TT1. -/
theorem test_ld_vx_dt : after (fun t => has [(1, 0x02#8)] t && decide (t.dt = ⟨1#8, true⟩) && pcIs 0x0202#16 t)
    ({ word 0xF107#16 with dt := ⟨2#8, true⟩ }) = true := by decide

/-- TT2. -/
theorem test_ld_dt_vx : after (fun t => decide (t.dt = ⟨2#8, true⟩ ∧ t.out.beep = false))
    (regs [(0, 0x03#8)] (word 0xF015#16)) = true := by decide

/-- TT7. -/
theorem test_ld_st_vx_beeps : after (fun t => decide (t.st = ⟨0#8, false⟩ ∧ t.out.beep = true))
    (regs [(0, 0x01#8)] (word 0xF018#16)) = true := by decide

/-- TT7. -/
theorem test_ld_st_vx_to_a_running_timer : after (fun t => decide (t.st = ⟨2#8, true⟩ ∧ t.out.beep = false))
    ({ regs [(0, 0x03#8)] (word 0xF018#16) with st := ⟨2#8, true⟩ }) = true := by decide

/-- TT8. -/
theorem test_ld_vx_k : after (fun t => has [(2, 0x0B#8)] t && pcIs 0x0202#16 t && decide (t.wait = none))
    (input { noKeys with keyEvent := some 0xB } (word 0xF20A#16)) = true := by decide

/-- TT9. -/
theorem test_ld_vx_k_suspends : after (fun t => decide (t.wait = some 2 ∧ t.dt = ⟨9#8, true⟩ ∧ t.waiting = true) && pcIs 0x0202#16 t)
    ({ input noKeys (word 0xF20A#16) with dt := ⟨9#8, true⟩ }) = true := by decide

/-- TT9. -/
theorem test_wait_ends : after (fun t => has [(2, 0x00#8)] t && decide (t.wait = none ∧ t.dt = ⟨8#8, true⟩) && pcIs 0x0202#16 t)
    ({ input { noKeys with keyEvent := some 0 } (word 0xF20A#16) with dt := ⟨9#8, true⟩, pc := 0x0202#16, wait := some 2 }) = true := by decide

/-- TT10. -/
theorem test_skp_low_nibble : after (fun t => pcIs 0x0204#16 t)
    (input { noKeys with keys := 0x0080#16 } (regs [(1, 0x17#8)] (word 0xE19E#16))) = true := by decide

/-- TT11. -/
theorem test_skp_other_keys : after (fun t => pcIs 0x0202#16 t)
    (input { noKeys with keys := 0xFF7F#16 } (regs [(1, 0x07#8)] (word 0xE19E#16))) = true := by decide

/-- TT12. -/
theorem test_sknp_key_down : after (fun t => pcIs 0x0202#16 t)
    (input { noKeys with keys := 0x0080#16 } (regs [(1, 0x07#8)] (word 0xE1A1#16))) = true := by decide

/-- TT13. -/
theorem test_sknp_key_up : after (fun t => pcIs 0x0204#16 t)
    (input noKeys (regs [(1, 0x07#8)] (word 0xE1A1#16))) = true := by decide

/-! ## The cycle -/

/-- TE4, TF5. -/
theorem test_unsupported_word_faults : after (fun t => decide (t.fault = some ⟨.unsupportedOpcode, 0x0200#16, 0#16⟩ ∧ t.out.fault = t.fault) && has [(0, 0x01#8)] t && pcIs 0x0200#16 t)
    (regs [(0, 0x01#8)] (word 0x0000#16)) = true := by decide

/-- TF4. -/
theorem test_fetch_at_0xFFF_faults : after (fun t => decide (t.fault = some ⟨.memoryOutOfBounds, 0x0FFF#16, 0x1000#16⟩))
    ({ State.reset with pc := 0x0FFF#16 }) = true := by decide

/-- TC16. -/
theorem test_fetch_beyond_memory_faults : after (fun t => decide (t.fault = some ⟨.memoryOutOfBounds, 0x10FE#16, 0x10FE#16⟩))
    ({ State.reset with pc := 0x10FE#16 }) = true := by decide

/-- TF7. -/
theorem test_no_tick_in_a_faulting_cycle : after (fun t => decide (t.dt = ⟨2#8, true⟩))
    ({ word 0xFFFF#16 with dt := ⟨2#8, true⟩ }) = true := by decide

/-- TF7. -/
theorem test_halted_cycle : after (fun t => decide (t.dt = ⟨2#8, true⟩ ∧ t.out = HostOutput.quiet) && pcIs 0x0200#16 t)
    ({ word 0x6001#16 with fault := some ⟨.unsupportedOpcode, 0x0200#16, 0#16⟩, dt := ⟨2#8, true⟩ }) = true := by decide

/-- S7: a timer set to 5 with no tick between. -/
theorem test_timer_activation :
    Timer.tick ⟨5#8, false⟩ = ⟨4#8, true⟩ ∧ Timer.tickFires ⟨5#8, false⟩ = true ∧
    Timer.tick ⟨1#8, true⟩ = ⟨0#8, false⟩ ∧ Timer.tick ⟨0#8, false⟩ = ⟨0#8, false⟩ := by decide

/-- TR1, TR2: reset with an image of two bytes. -/
theorem test_reset :
    reads [(0x000, 0xF0#8), (0x024, 0x10#8), (0x04F, 0x80#8), (0x050, 0x00#8), (0x1FF, 0x00#8), (0x200, 0x12#8)]
      (State.resetWith [0x12#8, 0x34#8]) = true ∧
    reads [(0x201, 0x34#8), (0x202, 0x00#8), (0xFFF, 0x00#8)] (State.resetWith [0x12#8, 0x34#8]) = true ∧
    (State.resetWith [0x12#8, 0x34#8]).pc = 0x0200#16 := by decide

/-- Writing back what an unlisted address reads as removes the entry: equal memories are equal lists. -/
theorem test_memory_is_canonical :
    bytes [(0x000, 0x00#8), (0x300, 0x01#8), (0x300, 0x00#8), (0x000, 0xF0#8)] State.reset = State.reset := by
  decide
/-! ## Witnesses: for every obligation with hypotheses, a state and operands that meet them -/

/-- DecodeGivesBackEveryEncodedInstruction. -/
theorem witness_well_formed : (Instr.shl 15 15).wellFormed = true := by decide

/-- EncodeGivesBackEveryDecodedWord. -/
theorem witness_word_that_decodes : decodeWord 0xFF65#16 = .ok (.ldVxMem 15) := by decide

/-- OpcodeTableRowsDoNotOverlap: a row that covers a word. -/
theorem witness_covered_word :
    (⟨0x00E0#16, 0xFFFF#16⟩ : OpcodeRow) ∈ opcodeTable ∧
    (⟨0x00E0#16, 0xFFFF#16⟩ : OpcodeRow).covers 0x00E0#16 = true := by decide

/-- ResetLeavesTheStatedState, ResetMeetsTheInvariant, FirstFetchAfterResetReadsTheImage: the smallest and
the greatest image, with an address of each range of the first at its ends. -/
theorem witness_images :
    imageWellFormed [] = true ∧ imageWellFormed [0x12#8, 0x00#8] = true ∧
    imageWellFormed (List.replicate 3584 0#8) = true ∧
    (0x00 < 0x50 ∧ 0x4F < 0x50) ∧ (0x50 ≤ 0x50 ∧ 0x1FF < 0x200) ∧ 1 < [0x12#8, 0x00#8].length ∧
    (0x200 + [0x12#8, 0x00#8].length ≤ 0x202 ∧ 4095 < 4096) :=
  ⟨by decide, by decide, test_image_that_fits_is_accepted, by decide⟩

/-- AddRegistersGivesSumAndCarry, SubtractionsGiveDifferenceAndStrictFlag and
ShiftsGiveHalfOrDoubleAndTheBitShiftedOut: registers for each clause. -/
theorem witness_flag_clauses :
    ((0 : RegIdx) ≠ vf ∧ (14 : RegIdx) ≠ vf) ∧ ((14 : RegIdx) ≠ vf ∧ (15 : RegIdx) = vf) ∧
    ((15 : RegIdx) = vf ∧ (0 : RegIdx) ≠ vf) := by decide

/-- RandomByteIsMasked. -/
theorem witness_random_byte :
    (input { noKeys with rand := 0xFF#8 } (word 0xC3FF#16)).inputs = [{ noKeys with rand := 0xFF#8 }] := rfl

/-- OppositeSkipsAreComplementary: both instructions of each pair answer a next state. -/
theorem witness_opposite_skips :
    (∃ t u, exec (.seImm 1 0x42#8) State.reset = .next t ∧ exec (.sneImm 1 0x42#8) State.reset = .next u) ∧
    ∃ t u, exec (.skp 1) State.reset = .next t ∧ exec (.sknp 1) State.reset = .next u :=
  ⟨⟨_, _, rfl, rfl⟩, _, _, rfl, rfl⟩

/-- CallPushesTheReturnAddress, ReturnPopsTheReturnAddress, StackFaultsAtBothEnds: the stack pointers at
both ends of each clause, with the entry that a return reads. -/
theorem witness_stack_pointers :
    State.reset.sp.val = 0 ∧ State.reset.sp.val < 16 ∧
    ({ State.reset with sp := 15 } : State).sp.val < 16 ∧ 0 < ({ State.reset with sp := 1 } : State).sp.val ∧
    0 < ({ State.reset with sp := 16 } : State).sp.val ∧
    ((15 : Fin 16).val + 1 = ({ State.reset with sp := 16 } : State).sp.val) ∧
    ({ State.reset with sp := 16 } : State).sp.val = 16 := by decide

/-- ReturnResumesAfterTheCall: a call whose callee has itself called and returned, so that the entry above
`sp` is not as the call left it. -/
theorem witness_call_and_return :
    ∃ t u, exec (.call 0x300#12) State.reset = .next t ∧
      u = { t with stack := t.stack.set 1 0x0456#16 } ∧ u.sp = t.sp ∧ ¬ KeepsStack t u ∧
      ∀ k : Fin 16, k.val = State.reset.sp.val → u.stackEntry k = t.stackEntry k := by
  refine ⟨_, _, rfl, rfl, rfl, fun h => absurd (h.2 1) (by decide), by decide⟩

/-- ReturnResumesAfterTheCall: the sixteenth call. -/
theorem witness_last_call :
    ({ State.reset with sp := 15 } : State).sp.val < 16 ∧
    ∃ t, exec (.call 0x300#12) { State.reset with sp := 15 } = .next t := ⟨by decide, _, rfl⟩

/-- StoreDecimalWritesThreeDigits, StoreRegistersWritesTheBlock, LoadRegistersReadsTheBlock: the last legal
address of each, and `x` at both ends. -/
theorem witness_last_legal_blocks :
    (index 0x0FFD#16 State.reset).mem.wf = true ∧ (index 0x0FFD#16 State.reset).i.toNat + 2 < 4096 ∧
    (index 0x0FFF#16 State.reset).i.toNat + (0 : RegIdx).val < 4096 ∧
    (index 0x0FF0#16 State.reset).i.toNat + (15 : RegIdx).val < 4096 := by decide

/-- BlocksBeyondMemoryFaultWithNoEffect: the first address beyond for each clause. -/
theorem witness_first_illegal_blocks :
    4096 ≤ (index 0x0FFE#16 State.reset).i.toNat + 2 ∧
    4096 ≤ (index 0x1000#16 State.reset).i.toNat + (0 : RegIdx).val ∧
    4096 ≤ (index 0x0FF1#16 State.reset).i.toNat + (15 : RegIdx).val ∧
    (1 ≤ (1 : Fin 16).val ∧ 4096 ≤ (index 0x1000#16 State.reset).i.toNat + (1 : Fin 16).val - 1) ∧
    (1 ≤ (15 : Fin 16).val ∧ 4096 ≤ (index 0x0FF2#16 State.reset).i.toNat + (15 : Fin 16).val - 1) := by
  decide

/-- MemoryReadsBackWhatWasWritten: the first and the last address. -/
theorem witness_memory : State.reset.mem.wf = true ∧ 0 < 4096 ∧ 4095 < 4096 := by decide

/-- StoresAreSeenByTheNextFetch: stores that cover both fetched bytes, one of them (from below, and from
above) and neither, the last legal ones of Fx55 and Fx33 among them. -/
theorem witness_stores_before_fetch :
    State.reset.mem.wf = true ∧ State.reset.pc.toNat + 1 < 4096 ∧
    ({ State.reset with pc := 0x0FFE#16 } : State).pc.toNat + 1 < 4096 ∧
    (index 0x0FF0#16 State.reset).i.toNat + (15 : RegIdx).val < 4096 ∧
    (index 0x01FE#16 State.reset).i.toNat + (2 : RegIdx).val < 4096 ∧
    (index 0x0201#16 State.reset).i.toNat + (0 : RegIdx).val < 4096 ∧
    (index 0x0300#16 State.reset).i.toNat + (0 : RegIdx).val < 4096 ∧
    (index 0x0FFD#16 State.reset).i.toNat + 2 < 4096 := by decide

/-- DrawXorsTheCoveredPixels, DrawRefinesThePlotBitByBit, DrawingTwiceRestoresTheScreen: no row from
anywhere, and the most rows from the last legal address. -/
theorem witness_sprites :
    (0 : RegIdx) ≠ vf ∧ (14 : RegIdx) ≠ vf ∧
    ((0 : Fin 16).val = 0 ∨ (index 0xFFFF#16 State.reset).i.toNat + (0 : Fin 16).val ≤ 4096) ∧
    ((15 : Fin 16).val = 0 ∨ (index 0x0FF1#16 State.reset).i.toNat + (15 : Fin 16).val ≤ 4096) := by decide

/-- ClearScreenDarkensEveryPixel. -/
theorem witness_clear_screen_cycle :
    (word 0x00E0#16).fault = none ∧ (word 0x00E0#16).wait = none ∧
    (word 0x00E0#16).fetch = .ok 0x00E0#16 := by decide

/-- KeyWaitTakesTheKeyOrSuspends: a cycle with a key event and one without. -/
theorem witness_key_events :
    (input { noKeys with keyEvent := some 15 } State.reset).input.keyEvent = some 15 ∧
    (input noKeys State.reset).input.keyEvent = none := by decide

/-- TickFollowsTheThreeSteps, ZeroedRunningTimerWrapsOrSaturates: a timer for each clause. -/
theorem witness_timers :
    (Timer.mk 1#8 true).value ≠ 0#8 ∧ (Timer.mk 255#8 false).value ≠ 0#8 ∧
    (Timer.mk 0#8 false).value = 0#8 ∧ (Timer.mk 0#8 true).active = true := by decide

/-- SettledTimerCountsDownToZero: the idle timer and one at its greatest value. -/
theorem witness_settled_timers : Timer.idle.settled ∧ (Timer.mk 255#8 true).settled :=
  ⟨by unfold Timer.settled; decide, by unfold Timer.settled; decide⟩

/-- StepRunsTheInstructionAtThePc: the last word of memory. -/
theorem witness_step :
    let s : State := bytes [(0xFFE, 0x6B#8), (0xFFF, 0x22#8)] { State.reset with pc := 0x0FFE#16 }
    s.fault = none ∧ s.wait = none ∧ s.pc.toNat + 1 < 4096 ∧
    decode [s.readByte s.pc.toNat, s.readByte (s.pc.toNat + 1)] = .ok (.ldImm 11 0x22#8, []) ∧
    ∃ u, exec (.ldImm 11 0x22#8) { s with out := HostOutput.quiet, pc := s.pc + 2#16 } = .next u :=
  ⟨rfl, rfl, by decide, by decide, _, rfl⟩

/-- PlacedWordIsRunByTheNextStep. -/
theorem witness_placed_word :
    State.reset.mem.wf = true ∧ decodeTableWord 16 0x63AB = some (.ldImm 3 0xAB#8) ∧
    ∃ u, exec (.ldImm 3 0xAB#8) (State.reset.withFetchWord 16 0x63AB).clearOut.advance = .next u :=
  ⟨rfl, by decide, _, rfl⟩

/-- FetchBeyondMemoryFaults: the two outcomes of its info, at their boundary. -/
theorem witness_fetch_beyond_memory :
    State.reset.fault = none ∧ State.reset.wait = none ∧
    4095 ≤ ({ State.reset with pc := 0x0FFF#16 } : State).pc.toNat ∧
    4095 ≤ ({ State.reset with pc := 0x1000#16 } : State).pc.toNat := by decide

/-- UnsupportedWordFaults. -/
theorem witness_unsupported_word :
    State.reset.fault = none ∧ State.reset.wait = none ∧ State.reset.fetch = .ok 0x0000#16 ∧
    ∀ i, decodeWord 0x0000#16 ≠ .ok i := by
  refine ⟨rfl, rfl, by decide, fun i h => ?_⟩
  have : decodeWord 0x0000#16 = .error (.unsupportedOpcode 0x0000#16) := by decide
  rw [this] at h; cases h

/-- HaltedCycleChangesNothing, FaultStaysLatchedForEver. -/
theorem witness_halted :
    ({ State.reset with fault := some ⟨.stackUnderflow, 0x0200#16, 0#16⟩ } : State).fault ≠ none := by decide

/-- WaitingCycleResumesOnAKeyEvent, with and without a key event. -/
theorem witness_waiting :
    (∀ e : HostInput, (input e { State.reset with wait := some 15 }).fault = none ∧
      (input e { State.reset with wait := some 15 }).wait = some 15) ∧
    (input noKeys { State.reset with wait := some 15 }).input.keyEvent = none ∧
    (input { noKeys with keyEvent := some 0 } { State.reset with wait := some 15 }).input.keyEvent = some 0 :=
  ⟨fun _ => ⟨rfl, rfl⟩, rfl, rfl⟩

/-- StepKeepsTheInvariant, BeepExactlyWhenTheIdleSoundTimerIsSet, FrameNotifyExactlyAfterADraw: a state
with every field at the end of its bound, and its next state. -/
theorem witness_invariant :
    let s : State := { regs [(0, 0xFF#8)] (word 0xBFFF#16) with
      i := 0x0FFF#16, stack := Vector.replicate 16 0x1000#16, sp := 16, dt := ⟨255#8, true⟩ }
    s.Inv ∧ ∃ t, step s = .next t :=
  ⟨⟨by decide, by decide, by decide, by decide, rfl, by unfold Timer.settled; decide,
    by unfold Timer.settled; decide, .inl rfl⟩, _, rfl⟩

/-- BeepExactlyWhenTheIdleSoundTimerIsSet: its right side holds of the cycle of `test_ld_st_vx_beeps`. -/
theorem witness_beep :
    let s : State := regs [(0, 0x01#8)] (word 0xF018#16)
    s.fault = none ∧ s.wait = none ∧ s.st.value = 0#8 ∧ s.fetch = .ok 0xF018#16 ∧
    decodeWord 0xF018#16 = .ok (.ldStVx 0) ∧ s.getV 0 ≠ 0#8 := by decide

/-- FaultsArePrecise, OnlyTheListedConditionsFault: a state that meets the invariant and whose step
faults; the tests above show a cycle of each of the other faults. -/
theorem witness_fault :
    (word 0x00EE#16).Inv ∧ (word 0x00EE#16).fault = none ∧
    ∃ t, step (word 0x00EE#16) = .next t ∧ t.fault = some ⟨.stackUnderflow, 0x0200#16, 0#16⟩ :=
  ⟨⟨by decide, by decide, by decide, by decide, rfl, by unfold Timer.settled; decide,
    by unfold Timer.settled; decide, .inl rfl⟩, rfl, _, rfl, by decide⟩

/-- ProgramCounterLaw: a skip that is taken. -/
theorem witness_program_counter :
    (word 0x3000#16).fault = none ∧ (word 0x3000#16).wait = none ∧ (word 0x3000#16).fetch = .ok 0x3000#16 ∧
    decodeWord 0x3000#16 = .ok (.seImm 0 0x00#8) ∧
    ∃ t, step (word 0x3000#16) = .next t ∧ t.fault = none :=
  ⟨rfl, rfl, by decide, by decide, _, rfl, by decide⟩

/-- InputsAreReadOnlyByTheRulesThatNameThem: 6xkk, with inputs that differ in all three parts. -/
theorem witness_inputs_not_read :
    (word 0x6001#16).wait = none ∧ (word 0x6001#16).fetch = .ok 0x6001#16 ∧
    (∀ x, decodeWord 0x6001#16 ≠ .ok (.ldVxK x)) ∧
    (∀ x, decodeWord 0x6001#16 ≠ .ok (.skp x) ∧ decodeWord 0x6001#16 ≠ .ok (.sknp x)) ∧
    ∀ x kk, decodeWord 0x6001#16 ≠ .ok (.rnd x kk) := by
  have h : decodeWord 0x6001#16 = .ok (.ldImm 0 0x01#8) := by decide
  refine ⟨rfl, by decide, ?_⟩
  simp [h]

/-- WaitLastsUntilTheFirstKeyEvent: two cycles without a key event, then one with. -/
theorem witness_wait :
    let s : State := { State.reset with
      wait := some 2, inputs := [noKeys, noKeys] ++ { noKeys with keyEvent := some 0 } :: [] }
    s.fault = none ∧ s.wait = some 2 ∧
    s.inputs = [noKeys, noKeys] ++ { noKeys with keyEvent := some 0 } :: [] ∧
    (∀ a ∈ [noKeys, noKeys], a.keyEvent = none) ∧
    ({ noKeys with keyEvent := some 0 } : HostInput).keyEvent = some 0 := by decide

/-- OtherRegistersAreNeverTouched, EachPartOfTheStateHasItsWriters: an instruction with a destination, a
register that is not it, and `VF` with an instruction that writes no flag. -/
theorem witness_registers :
    (∃ t, exec (.ldVxMem 3) State.reset = .next t) ∧ hasDest (.ldVxMem 3) 4 = false ∧
    ((4 : RegIdx) = vf → writesFlag (.ldVxMem 3) = false) ∧
    hasDest (.orReg 1 2) vf = false ∧ writesFlag (.orReg 1 2) = false :=
  ⟨⟨_, rfl⟩, by decide⟩

end Sys2Proof.Tests
end

/-! PROOFS. The program-counter law (40_cycle.md R79): `pc` after each named update and after the execute
phase of every instruction that does not fault. -/

namespace Sys2Proof.Machine

/-! ## `pc` under the operations that leave it alone -/

@[simp] theorem State.storeDigits_pc (s : State) (b : Byte) : (s.storeDigits b).pc = s.pc := by
  rw [State.storeDigits_eq]

@[simp] theorem State.storeRegs_pc (s : State) (c : Nat) : (s.storeRegs c).pc = s.pc := by
  rw [State.storeRegs_eq]

@[simp] theorem State.loadRegs_pc (s : State) (c : Nat) : (s.loadRegs c).pc = s.pc := by
  rw [State.loadRegs_eq]

@[simp] theorem State.awaitKey_pc (s : State) (x : RegIdx) : (s.awaitKey x).pc = s.pc := by
  rw [State.awaitKey_eq]

theorem PlotFrame.pc {s t : State} (h : PlotFrame s t) : t.pc = s.pc := by rw [h.rest]

@[simp] theorem State.plotRows_pc (s : State) (x y : RegIdx) (n : Nat) : (s.plotRows x y n).pc = s.pc :=
  (PlotFrame.plotRows s x y n).pc

/-! ## The skip and the top of the stack, in the terms of the law -/

/-- A skip on the already advanced `pc` moves it by 4 from where the instruction was fetched. -/
theorem State.skipIf_advance_pc (s : State) (c : Bool) :
    (s.advance.skipIf c).pc = if c then s.pc + 4#16 else s.pc + 2#16 := by
  simp [State.skipIf_pc, BitVec.add_assoc]

theorem State.skipIf_not_advance_pc (s : State) (c : Bool) :
    (s.advance.skipIf (!c)).pc = if c then s.pc + 2#16 else s.pc + 4#16 := by
  cases c <;> simp [State.skipIf_advance_pc]

theorem State.skipIf_decide_advance_pc (s : State) (c : Prop) [Decidable c] :
    (s.advance.skipIf (decide c)).pc = if c then s.pc + 4#16 else s.pc + 2#16 := by
  simp [State.skipIf_advance_pc]

theorem State.stackTop_eq_stackEntry_ofNat {s : State} (h : s.sp ≠ 0) :
    s.stackTop = s.stackEntry (Fin.ofNat 16 (s.sp.val - 1)) := by
  have hpos : 0 < s.sp.val := Fin.pos_iff_ne_zero.mpr h
  have hlt : s.sp.val - 1 < 16 := by omega
  rw [State.stackTop_eq s hpos]
  exact congrArg s.stackEntry (Fin.ext (Nat.mod_eq_of_lt hlt).symm)

/-! ## Guarded meanings that did not fault -/

/-- A meaning that raises under a condition and did not fault: the condition failed. -/
theorem of_raise_or_next {c : Prop} [Decidable c] {s a t : State} {kind : FaultKind} {info : Word}
    (h : (if c then .next (s.raise kind info) else .next a : Host.Outcome State Fault Refusal) = .next t)
    (hf : t.fault = none) : ¬ c ∧ t = a := by
  split at h
  · cases h; simp at hf
  · cases h; exact ⟨‹_›, rfl⟩

/-- A meaning that raises unless its block of memory exists and did not fault. -/
theorem eq_of_next_or_raiseOutOfBounds {c : Prop} [Decidable c] {s a t : State}
    (h : (if c then .next a else .next s.raiseOutOfBounds : Host.Outcome State Fault Refusal) = .next t)
    (hf : t.fault = none) : t = a := by
  split at h
  · cases h; rfl
  · cases h; simp [State.raiseOutOfBounds] at hf

/-! ## The law -/

/-- The law reads the registers, the stack, `pc` and the inputs, none of which the start of a cycle
changes. -/
theorem State.pcAfter_clearOut (s : State) (i : Instr) : s.clearOut.pcAfter i = s.pcAfter i := by
  cases i <;> rfl

/-- The execute phase of an instruction fetched at `s.pc` leaves `pc` where the law says, unless it raises
a fault. -/
theorem pc_of_exec_advance {i : Instr} {s t : State} (h : exec i s.advance = .next t)
    (hf : t.fault = none) : t.pc = s.pcAfter i := by
  cases i with
  | jp addr | jpV0 addr => cases h; rfl
  | call addr =>
    obtain ⟨-, rfl⟩ := of_raise_or_next h hf
    rfl
  | ret =>
    obtain ⟨hsp, rfl⟩ := of_raise_or_next h hf
    exact State.stackTop_eq_stackEntry_ofNat hsp
  | seImm | sneImm | seReg | sneReg =>
    cases h
    exact State.skipIf_decide_advance_pc s _
  | skp x =>
    cases h
    exact State.skipIf_advance_pc s (s.keyDown (s.keyOf x))
  | sknp x =>
    cases h
    exact State.skipIf_not_advance_pc s (s.keyDown (s.keyOf x))
  | drw | ldBVx | ldMemVx | ldVxMem =>
    obtain rfl := eq_of_next_or_raiseOutOfBounds h hf
    simp [State.pcAfter]
  | ldVxK x =>
    cases h
    exact State.awaitKey_pc _ x
  | _ => cases h; rfl

end Sys2Proof.Machine

namespace Sys2Proof

open Sys2Proof.Machine

/-- Settles O51: the phases around the execute phase do not move `pc`, and the execute phase leaves it
where the law says. -/
theorem programCounterLaw : Obligations.ProgramCounterLaw := by
  intro s t w i hfault hwait hfetch hdecode hstep hnofault
  obtain ⟨u, hexec⟩ := exec_next i s.clearOut.advance
  rw [step_execute hfault hwait hfetch hdecode hexec] at hstep
  cases hstep
  have hu : u.fault = none := by simpa using hnofault
  calc u.afterExecute.nextInput.pc = u.pc := by simp
    _ = s.clearOut.pcAfter i := pc_of_exec_advance hexec hu
    _ = s.pcAfter i := State.pcAfter_clearOut s i

end Sys2Proof

/-! PROOFS. Jumps and conditional skips (41_control_flow.md R82, R84 to R88): where each leaves `pc`, and
that it writes nothing else. -/

namespace Sys2Proof.Machine

/-! ## Jump targets as natural numbers -/

@[simp] theorem addrOperand_toNat (addr : Addr12) : (addrOperand addr).toNat = addr.toNat :=
  BitVec.toNat_setWidth_of_le (by decide)

theorem State.regAsWord_toNat (s : State) (x : RegIdx) : (s.regAsWord x).toNat = (s.getV x).toNat :=
  BitVec.toNat_setWidth_of_le (by decide)

/-- A byte plus a 12-bit address is at most 0x10FE, so the 16-bit sum of R88 does not wrap. -/
theorem State.indexedTarget_toNat (s : State) (addr : Addr12) :
    (s.indexedTarget addr).toNat = (s.getV 0).toNat + addr.toNat := by
  have hsum : (s.getV 0).toNat + addr.toNat < 2 ^ 16 := by omega
  calc (s.regAsWord 0 + addrOperand addr).toNat
      = ((s.regAsWord 0).toNat + (addrOperand addr).toNat) % 2 ^ 16 := BitVec.toNat_add ..
    _ = (s.getV 0).toNat + addr.toNat := by
      rw [s.regAsWord_toNat, addrOperand_toNat, Nat.mod_eq_of_lt hsum]

/-! ## The two ways an instruction writes `pc` and nothing else -/

theorem OnlyPc.setPc (s : State) (w : Word) : OnlyPc s (s.setPc w) :=
  OnlyRegs.of_update (fun _ _ => rfl) rfl

/-- A skip under a condition: `pc` moves on by 2 exactly when it holds, and nothing else changes. -/
theorem State.skipIf_decide_next (s : State) (c : Prop) [Decidable c] :
    ∃ t, (.next (s.skipIf (decide c)) : Host.Outcome State Fault Refusal) = .next t ∧
      t.pc = (if c then s.pc + 2#16 else s.pc) ∧ OnlyPc s t :=
  ⟨_, rfl, s.skipIf_decide_pc c, OnlyPc.skipIf s _⟩

end Sys2Proof.Machine

namespace Sys2Proof

open Sys2Proof.Machine

/-- Settles O18: each jump is one `setPc`, and the 16-bit target is the natural number of the statement. -/
theorem jumpsSetThePc : Obligations.JumpsSetThePc := by
  intro addr s
  constructor
  · exact ⟨_, rfl, addrOperand_toNat addr, OnlyPc.setPc s _⟩
  · exact ⟨_, rfl, s.indexedTarget_toNat addr, OnlyPc.setPc s _⟩

/-- Settles O19: each of the four meanings is one `skipIf` on its own condition. -/
theorem skipsAddTwoWhenTheConditionHolds : Obligations.SkipsAddTwoWhenTheConditionHolds := by
  intro x y kk s
  refine ⟨?seImm, ?sneImm, ?seReg, ?sneReg⟩
  case seImm => exact s.skipIf_decide_next (s.getV x = kk)
  case sneImm => exact s.skipIf_decide_next (s.getV x ≠ kk)
  case seReg => exact s.skipIf_decide_next (s.getV x = s.getV y)
  case sneReg => exact s.skipIf_decide_next (s.getV x ≠ s.getV y)

end Sys2Proof

/-! PROOFS. Loads, the immediate addition and the bitwise instructions (42_load_alu.md R91 to R96): each is
one write of one general register. -/

namespace Sys2Proof.Machine

/-! ## Writing one general register and nothing else -/

theorem State.getV_setV_same (s : State) (x : RegIdx) (b : Byte) : (s.setV x b).getV x = b :=
  (s.getV_setV x b x).trans (if_pos rfl)

theorem OnlyRegs.setV (s : State) (x : RegIdx) (b : Byte) : OnlyRegs (· = x) s (s.setV x b) :=
  OnlyRegs.of_update (fun r hr => (s.getV_setV x b r).trans (if_neg hr)) rfl

/-- A meaning that ends in one register write: the register holds the byte, and nothing else changes. -/
theorem State.setV_next (s : State) (x : RegIdx) (b : Byte) :
    ∃ t, (.next (s.setV x b) : Host.Outcome State Fault Refusal) = .next t ∧
      t.getV x = b ∧ t.pc = s.pc ∧ OnlyRegs (· = x) s t :=
  ⟨_, rfl, s.getV_setV_same x b, s.setV_pc x b, OnlyRegs.setV s x b⟩

end Sys2Proof.Machine

namespace Sys2Proof

open Sys2Proof.Machine

/-- Settles O11: each of the six meanings is one `setV` of its own value; 7xkk's 8-bit sum is the natural
sum modulo 256. -/
theorem loadAddImmediateAndLogicResults : Obligations.LoadAddImmediateAndLogicResults := by
  intro x y kk s
  refine ⟨?ldImm, ?addImm, ?ldReg, ?orReg, ?andReg, ?xorReg⟩
  case ldImm => exact s.setV_next x kk
  case addImm =>
    obtain ⟨t, hnext, hval, hpc, hframe⟩ := s.setV_next x (s.getV x + kk)
    have hsum : (t.getV x).toNat = ((s.getV x).toNat + kk.toNat) % 256 := by
      rw [hval, BitVec.toNat_add]
    exact ⟨t, hnext, hsum, hpc, hframe⟩
  case ldReg => exact s.setV_next x (s.getV y)
  case orReg => exact s.setV_next x (s.getV x ||| s.getV y)
  case andReg => exact s.setV_next x (s.getV x &&& s.getV y)
  case xorReg => exact s.setV_next x (s.getV x ^^^ s.getV y)

end Sys2Proof

/-! PROOFS. The three loads of `I` (43_index_memory.md R103 to R105): each is one write of the address
register. -/

namespace Sys2Proof.Machine

/-! ## The value each load writes, as a natural number -/

/-- Five times a byte is at most 0x4FB, so the 16-bit product of R105 does not wrap. -/
theorem State.glyphAddr_toNat (s : State) (x : RegIdx) :
    (s.glyphAddr x).toNat = (s.getV x).toNat * 5 := by
  have hprod : (s.getV x).toNat * 5 < 2 ^ 16 := by omega
  calc (s.regAsWord x * 5#16).toNat
      = ((s.regAsWord x).toNat * 5) % 2 ^ 16 := BitVec.toNat_mul ..
    _ = (s.getV x).toNat * 5 := by rw [s.regAsWord_toNat, Nat.mod_eq_of_lt hprod]

/-! ## Writing `I` and nothing else -/

theorem OnlyIndex.setI (s : State) (w : Word) : OnlyIndex s (s.setI w) where
  regs := s.setI_getV w
  counter := s.setI_pc w
  stack := ⟨s.setI_sp w, s.setI_stackEntry w⟩
  timers := ⟨s.setI_dt w, s.setI_st w⟩
  screen := ⟨s.setI_pixel w, s.setI_dirty w⟩
  memory := s.setI_readByte w
  latches := ⟨s.setI_wait w, s.setI_fault w⟩
  ports := ⟨s.setI_inputs w, s.setI_ticks w, s.setI_out w⟩

end Sys2Proof.Machine

namespace Sys2Proof

open Sys2Proof.Machine

/-- Settles O25: each load is one `setI`, and the 16-bit value written is the natural number of the
statement. -/
theorem indexLoadsSetI : Obligations.IndexLoadsSetI := by
  intro addr x s
  refine ⟨?ldI, ?ldIVx, ?ldFVx⟩
  case ldI => exact ⟨_, rfl, addrOperand_toNat addr, OnlyIndex.setI s _⟩
  case ldIVx => exact ⟨_, rfl, s.regAsWord_toNat x, OnlyIndex.setI s _⟩
  case ldFVx => exact ⟨_, rfl, s.glyphAddr_toNat x, OnlyIndex.setI s _⟩

end Sys2Proof

/-! PROOFS. Clearing the screen (44_display.md R111): the execute phase of 00E0, and what TICK and FLUSH of
its cycle make of it. -/

namespace Sys2Proof.Machine

/-! ## The execute phase writes the pixels and `dirty`, and nothing else -/

theorem OnlyScreen.clearPixels_markDirty (s : State) :
    OnlyScreen (fun _ => False) s s.clearPixels.markDirty where
  regs := fun r _ => s.clearPixels_getV r
  index := s.clearPixels_i
  counter := s.clearPixels_pc
  stack := ⟨s.clearPixels_sp, s.clearPixels_stackEntry⟩
  timers := ⟨s.clearPixels_dt, s.clearPixels_st⟩
  memory := s.clearPixels_readByte
  latches := ⟨s.clearPixels_wait, s.clearPixels_fault⟩
  ports := ⟨s.clearPixels_inputs, s.clearPixels_ticks, s.clearPixels_out⟩

/-! ## The rest of the cycle -/

/-- FLUSH reports a screen that the execute phase left `dirty`, whatever set it. -/
theorem State.finishCycle_frameNotify_of_dirty {s : State} (h : s.dirty = true) :
    s.finishCycle.out.frameNotify = true := by
  simp [State.finishCycle_out, h]

/-- The cycle of 00E0 is the clear, then TICK and FLUSH: the clear sets neither latch that would end it
early. -/
theorem step_cls {s : State} (hfault : s.fault = none) (hwait : s.wait = none)
    (hfetch : s.fetch = .ok 0x00E0#16) :
    step s = .next s.clearOut.advance.clearPixels.markDirty.finishCycle.nextInput := by
  have hdecode : decodeWord 0x00E0#16 = .ok .cls := rfl
  have hrest : s.clearOut.advance.clearPixels.markDirty.afterExecute =
      s.clearOut.advance.clearPixels.markDirty.finishCycle :=
    State.afterExecute_of_none hfault hwait
  rw [step_execute hfault hwait hfetch hdecode rfl, hrest]

end Sys2Proof.Machine

namespace Sys2Proof

open Sys2Proof.Machine

/-- Settles O32: the execute phase darkens the screen and sets `dirty`; TICK and FLUSH keep the pixels and
turn `dirty` into the notification. -/
theorem clearScreenDarkensEveryPixel : Obligations.ClearScreenDarkensEveryPixel := by
  intro s
  constructor
  · exact ⟨_, rfl, s.pixel_clearPixels, s.clearPixels.markDirty_dirty,
      OnlyScreen.clearPixels_markDirty s⟩
  · intro hfault hwait hfetch
    refine ⟨_, step_cls hfault hwait hfetch, ?dark, ?notified⟩
    case dark => simp
    case notified => exact State.finishCycle_frameNotify_of_dirty (State.markDirty_dirty _)

end Sys2Proof

/-! PROOFS. The key skips (45_timer_key.md R117, R118): the bit of the cycle's key levels that each tests,
and where it leaves `pc`. -/

namespace Sys2Proof.Machine

/-- The key a register names is the bit of the cycle's levels that the byte's low nibble numbers. -/
theorem State.keyDown_keyOf (s : State) (x : RegIdx) :
    s.keyDown (s.keyOf x) = s.input.keys.getLsbD ((s.getV x).toNat % 16) := rfl

/-- A skip on the negation of a level moves `pc` on exactly when the level is low. -/
theorem State.skipIf_not_pc (s : State) (c : Bool) :
    (s.skipIf (!c)).pc = if c then s.pc else s.pc + 2#16 := by cases c <;> rfl

end Sys2Proof.Machine

namespace Sys2Proof

open Sys2Proof.Machine

/-- Settles O37: each meaning is one `skipIf`, on the level of the key that `V[x]` names or on its
negation. -/
theorem keySkipsTestTheLowNibblesKey : Obligations.KeySkipsTestTheLowNibblesKey := by
  intro x s
  rw [← s.keyDown_keyOf x]
  constructor
  · exact ⟨_, rfl, OnlyPc.skipIf s _, s.skipIf_pc (s.keyDown (s.keyOf x))⟩
  · exact ⟨_, rfl, OnlyPc.skipIf s _, s.skipIf_not_pc (s.keyDown (s.keyOf x))⟩

end Sys2Proof

/-! PROOFS. The encoding (30_encoding.md R53 to R65): the fields of an encoded word, decoder and encoder as
inverses of each other, and the words that are no instruction. -/

namespace Sys2Proof

/-! ## The fields of each format -/

@[simp] theorem opField_formatA (op : BitVec 4) (addr : Addr12) : opField (formatA op addr) = op.toNat := by
  rw [opField_eq, formatA_toNat]; omega

@[simp] theorem addrField_formatA (op : BitVec 4) (addr : Addr12) : addrField (formatA op addr) = addr := by
  apply BitVec.eq_of_toNat_eq
  rw [addrField_toNat, formatA_toNat]; omega

@[simp] theorem opField_formatXK (op : BitVec 4) (x : RegIdx) (kk : Byte) :
    opField (formatXK op x kk) = op.toNat := by
  rw [opField_eq, formatXK_toNat]; omega

@[simp] theorem xField_formatXK (op : BitVec 4) (x : RegIdx) (kk : Byte) :
    xField (formatXK op x kk) = x := by
  apply Fin.ext
  rw [xField_val, formatXK_toNat]; omega

@[simp] theorem kkField_formatXK (op : BitVec 4) (x : RegIdx) (kk : Byte) :
    kkField (formatXK op x kk) = kk := by
  apply BitVec.eq_of_toNat_eq
  rw [kkField_toNat, formatXK_toNat]; omega

@[simp] theorem opField_formatXYN (op : BitVec 4) (x y n : Fin 16) :
    opField (formatXYN op x y n) = op.toNat := by
  rw [opField_eq, formatXYN_toNat]; omega

@[simp] theorem xField_formatXYN (op : BitVec 4) (x y n : Fin 16) : xField (formatXYN op x y n) = x := by
  apply Fin.ext
  rw [xField_val, formatXYN_toNat]; omega

@[simp] theorem yField_formatXYN (op : BitVec 4) (x y n : Fin 16) : yField (formatXYN op x y n) = y := by
  apply Fin.ext
  rw [yField_val, formatXYN_toNat]; omega

@[simp] theorem nField_formatXYN (op : BitVec 4) (x y n : Fin 16) : nField (formatXYN op x y n) = n := by
  apply Fin.ext
  rw [nField_val, formatXYN_toNat]; omega

/-! ## A word put together again from its fields -/

theorem formatA_fields {w : Word} {op : BitVec 4} (hop : opField w = op.toNat) :
    formatA op (addrField w) = w := by
  apply BitVec.eq_of_toNat_eq
  rw [opField_eq] at hop
  rw [formatA_toNat, addrField_toNat]; omega

theorem formatXK_fields {w : Word} {op : BitVec 4} {kk : Byte} (hop : opField w = op.toNat)
    (hkk : (kkField w).toNat = kk.toNat) : formatXK op (xField w) kk = w := by
  apply BitVec.eq_of_toNat_eq
  rw [opField_eq] at hop
  rw [kkField_toNat] at hkk
  rw [formatXK_toNat, xField_val]; omega

theorem formatXYN_fields {w : Word} {op : BitVec 4} {n : Fin 16} (hop : opField w = op.toNat)
    (hn : (nField w).val = n.val) : formatXYN op (xField w) (yField w) n = w := by
  apply BitVec.eq_of_toNat_eq
  rw [opField_eq] at hop
  rw [nField_val] at hn
  rw [formatXYN_toNat, xField_val, yField_val]; omega

theorem opField_lt (w : Word) : opField w < 16 := by
  rw [opField_eq]; omega

/-! ## Decoding an encoded instruction -/

/-- The decoder finds each instruction in its word: by its top nibble the group, by the fields of the
group's format the row and the operands. -/
theorem decodeWord_encodeWord (i : Instr) : decodeWord (encodeWord i) = .ok i := by
  cases i with
  | cls | ret => rfl
  | jp | call | ldI | jpV0 => simp [encodeWord, decodeWord]
  | seImm | sneImm | ldImm | addImm | rnd => simp [encodeWord, decodeWord]
  | seReg => simp [encodeWord, decodeWord, decodeGroup5]
  | sneReg => simp [encodeWord, decodeWord, decodeGroup9]
  | drw => simp [encodeWord, decodeWord]
  | ldReg | orReg | andReg | xorReg | addReg | subReg | shr | subnReg | shl =>
    simp [encodeWord, decodeWord, decodeGroup8]
  | skp | sknp => simp [encodeWord, decodeWord, decodeGroupE]
  | ldVxDt | ldVxK | ldDtVx | ldStVx | ldIVx | ldFVx | ldBVx | ldMemVx | ldVxMem =>
    simp [encodeWord, decodeWord, decodeGroupF]

/-- Settles O2: the decoder puts the two stored bytes together to the word, and finds the instruction in
it. -/
theorem decodeGivesBackEveryEncodedInstruction : Obligations.DecodeGivesBackEveryEncodedInstruction := by
  intro i rest _
  constructor
  · rw [encodeBytes, List.cons_append, List.cons_append, List.nil_append, decode_bytes,
      decodeWord_encodeWord]
  · refine ⟨_, _, rfl, ?_⟩
    rw [highByte_toNat, lowByte_toNat]; omega

/-! ## Encoding a decoded word -/

theorem encodeWord_of_decodeGroup0 {w : Word} {i : Instr} (h : decodeGroup0 w = .ok i) :
    encodeWord i = w := by
  unfold decodeGroup0 at h
  split at h
  · cases h; exact Eq.symm ‹_›
  · split at h <;> cases h
    exact Eq.symm ‹_›

theorem encodeWord_of_decodeGroup5 {w : Word} {i : Instr} (hop : opField w = 0x5)
    (h : decodeGroup5 w = .ok i) : encodeWord i = w := by
  unfold decodeGroup5 at h
  split at h <;> cases h
  exact formatXYN_fields hop (congrArg Fin.val ‹_›)

theorem encodeWord_of_decodeGroup9 {w : Word} {i : Instr} (hop : opField w = 0x9)
    (h : decodeGroup9 w = .ok i) : encodeWord i = w := by
  unfold decodeGroup9 at h
  split at h <;> cases h
  exact formatXYN_fields hop (congrArg Fin.val ‹_›)

theorem encodeWord_of_decodeGroup8 {w : Word} {i : Instr} (hop : opField w = 0x8)
    (h : decodeGroup8 w = .ok i) : encodeWord i = w := by
  unfold decodeGroup8 at h
  split at h <;> cases h <;> exact formatXYN_fields hop ‹_›

theorem encodeWord_of_decodeGroupE {w : Word} {i : Instr} (hop : opField w = 0xE)
    (h : decodeGroupE w = .ok i) : encodeWord i = w := by
  unfold decodeGroupE at h
  split at h <;> cases h <;> exact formatXK_fields hop ‹_›

theorem encodeWord_of_decodeGroupF {w : Word} {i : Instr} (hop : opField w = 0xF)
    (h : decodeGroupF w = .ok i) : encodeWord i = w := by
  unfold decodeGroupF at h
  split at h <;> cases h <;> exact formatXK_fields hop ‹_›

/-- Settles O3: in every group the word is put together again from the fields the decoder took. -/
theorem encodeGivesBackEveryDecodedWord : Obligations.EncodeGivesBackEveryDecodedWord := by
  intro w i h
  unfold decodeWord at h
  split at h
  case h_1 => exact encodeWord_of_decodeGroup0 h
  case h_6 hop => exact encodeWord_of_decodeGroup5 hop h
  case h_9 hop => exact encodeWord_of_decodeGroup8 hop h
  case h_10 hop => exact encodeWord_of_decodeGroup9 hop h
  case h_15 hop => exact encodeWord_of_decodeGroupE hop h
  case h_16 =>
    have hop : opField w = 0xF := by
      have hlt := opField_lt w
      simp only [imp_false] at *
      omega
    exact encodeWord_of_decodeGroupF hop h
  case h_2 hop | h_3 hop | h_11 hop | h_12 hop => cases h; exact formatA_fields hop
  case h_4 hop | h_5 hop | h_7 hop | h_8 hop | h_13 hop => cases h; exact formatXK_fields hop rfl
  case h_14 hop => cases h; exact formatXYN_fields hop rfl

/-! ## The words that are no instruction -/

theorem decodeGroup0_eq_error (w : Word) : decodeGroup0 w = .error (.unsupportedOpcode w) ↔
    w ≠ 0x00E0#16 ∧ w ≠ 0x00EE#16 := by
  unfold decodeGroup0
  split
  · simp [*]
  · split <;> simp [*]

theorem decodeGroup5_eq_error (w : Word) : decodeGroup5 w = .error (.unsupportedOpcode w) ↔
    w.toNat % 16 ≠ 0 := by
  rw [← nField_val, Fin.val_ne_zero_iff, decodeGroup5]
  split <;> simp [*]

theorem decodeGroup9_eq_error (w : Word) : decodeGroup9 w = .error (.unsupportedOpcode w) ↔
    w.toNat % 16 ≠ 0 := by
  rw [← nField_val, Fin.val_ne_zero_iff, decodeGroup9]
  split <;> simp [*]

theorem decodeGroup8_eq_error (w : Word) : decodeGroup8 w = .error (.unsupportedOpcode w) ↔
    w.toNat % 16 ∈ [0x8, 0x9, 0xA, 0xB, 0xC, 0xD, 0xF] := by
  have hlt := (nField w).isLt
  rw [← nField_val, decodeGroup8]
  split <;> simp_all
  omega

theorem decodeGroupE_eq_error (w : Word) : decodeGroupE w = .error (.unsupportedOpcode w) ↔
    w.toNat % 256 ∉ [0x9E, 0xA1] := by
  rw [← kkField_toNat, decodeGroupE]
  split <;> simp_all

theorem decodeGroupF_eq_error (w : Word) : decodeGroupF w = .error (.unsupportedOpcode w) ↔
    w.toNat % 256 ∉ [0x07, 0x0A, 0x15, 0x18, 0x1E, 0x29, 0x33, 0x55, 0x65] := by
  rw [← kkField_toNat, decodeGroupF]
  split <;> simp_all

/-- Settles O6: only groups 0, 5, 8, 9, E and F reject words, each those of its own row. -/
theorem unsupportedWordsAreThoseOfTheTable : Obligations.UnsupportedWordsAreThoseOfTheTable := by
  intro w
  rw [← opField_eq]
  unfold decodeWord
  split
  case h_16 =>
    have hop : opField w = 0xF := by
      have hlt := opField_lt w
      simp only [imp_false] at *
      omega
    simp [decodeGroupF_eq_error, hop]
  case h_1 hop => simp [decodeGroup0_eq_error, hop]
  case h_6 hop => simp [decodeGroup5_eq_error, hop]
  case h_9 hop => simp [decodeGroup8_eq_error, hop]
  case h_10 hop => simp [decodeGroup9_eq_error, hop]
  case h_15 hop => simp [decodeGroupE_eq_error, hop]
  all_goals simp [*]

/-- The decoder answers an instruction, or rejects the word with the word itself. -/
theorem decodeWord_ok_or_unsupported (w : Word) :
    (∃ i, decodeWord w = .ok i) ∨ decodeWord w = .error (.unsupportedOpcode w) := by
  unfold decodeWord
  split
  case h_1 => unfold decodeGroup0; split <;> [simp; (split <;> simp)]
  case h_6 => unfold decodeGroup5; split <;> simp
  case h_9 => unfold decodeGroup8; split <;> simp
  case h_10 => unfold decodeGroup9; split <;> simp
  case h_15 => unfold decodeGroupE; split <;> simp
  case h_16 => unfold decodeGroupF; split <;> simp
  all_goals simp

/-! ## The opcode table -/

theorem nibble_and_F (op : BitVec 4) : op &&& 0xF#4 = op := BitVec.and_allOnes

theorem byte_and_FF (kk : Byte) : kk &&& 0xFF#8 = kk := by
  rw [show 0xFF#8 = BitVec.allOnes 8 by decide, BitVec.and_allOnes]

/-- The mask of formats A and XK keeps the top nibble. -/
theorem and_F000_toNat (w : Word) : (w &&& 0xF000#16).toNat = w.toNat / 4096 * 4096 := by
  have h := Laws.formatA_and (w.extractLsb' 12 4) 0xF#4 (addrField w)
  rw [formatA_fields rfl, nibble_and_F] at h
  calc (w &&& 0xF000#16).toNat = (formatA (w.extractLsb' 12 4) 0#12).toNat := congrArg BitVec.toNat h
    _ = opField w * 4096 + 0 := formatA_toNat _ _
    _ = w.toNat / 4096 * 4096 := by rw [opField_eq, Nat.add_zero]

/-- The mask of format X keeps the top nibble and the low byte. -/
theorem and_F0FF_toNat (w : Word) :
    (w &&& 0xF0FF#16).toNat = w.toNat / 4096 * 4096 + w.toNat % 256 := by
  have h := Laws.formatXK_and (w.extractLsb' 12 4) 0xF#4 (xField w) (kkField w) 0xFF#8
  rw [formatXK_fields rfl rfl, nibble_and_F, byte_and_FF] at h
  calc (w &&& 0xF0FF#16).toNat = (formatXK (w.extractLsb' 12 4) 0 (kkField w)).toNat :=
        congrArg BitVec.toNat h
    _ = opField w * 4096 + 0 * 256 + (kkField w).toNat := formatXK_toNat _ _ _
    _ = w.toNat / 4096 * 4096 + w.toNat % 256 := by rw [opField_eq, kkField_toNat]; omega

/-- The mask of format XY keeps the top nibble and the low one. -/
theorem and_F00F_toNat (w : Word) :
    (w &&& 0xF00F#16).toNat = w.toNat / 4096 * 4096 + w.toNat % 16 := by
  have h := Laws.formatXYN_and (w.extractLsb' 12 4) 0xF#4 0xF#4 (xField w) (yField w) (nField w)
  rw [formatXYN_fields rfl rfl, nibble_and_F, nibble_and_F] at h
  calc (w &&& 0xF00F#16).toNat = (formatXYN (w.extractLsb' 12 4) 0 0 (nField w)).toNat :=
        congrArg BitVec.toNat h
    _ = opField w * 4096 + 0 * 256 + 0 * 16 + (nField w).val := formatXYN_toNat _ _ _ _
    _ = w.toNat / 4096 * 4096 + w.toNat % 16 := by rw [opField_eq, nField_val]; omega

theorem and_FFFF_toNat (w : Word) : (w &&& 0xFFFF#16).toNat = w.toNat := by
  rw [show 0xFFFF#16 = BitVec.allOnes 16 by decide, BitVec.and_allOnes]

/-- No row of the table covers a word of the table of unsupported words. -/
theorem not_covers_of_unsupported {w : Word} (h : decodeWord w = .error (.unsupportedOpcode w)) :
    ∀ r ∈ opcodeTable, r.covers w ≠ true := by
  have hw := (unsupportedWordsAreThoseOfTheTable w).mp h
  simp only [ne_eq, ← BitVec.toNat_inj, List.mem_cons, List.not_mem_nil, or_false,
    BitVec.reduceToNat] at hw
  simp only [opcodeTable, List.cons_append, List.nil_append, List.forall_mem_cons, OpcodeRow.covers,
    ne_eq, decide_eq_true_eq, ← BitVec.toNat_inj, and_F000_toNat, and_F0FF_toNat, and_F00F_toNat,
    and_FFFF_toNat, BitVec.reduceToNat, List.not_mem_nil, false_imp_iff, implies_true, and_true]

  omega

theorem encodeWord_covered (i : Instr) : ∃ r ∈ opcodeTable, r.covers (encodeWord i) = true := by
  cases i with
  | cls => exact Laws.Layout.cls
  | ret => exact Laws.Layout.ret
  | jp addr => exact Laws.Layout.jp addr
  | call addr => exact Laws.Layout.call addr
  | seImm x kk => exact Laws.Layout.seImm x kk
  | sneImm x kk => exact Laws.Layout.sneImm x kk
  | seReg x y => exact Laws.Layout.seReg x y
  | ldImm x kk => exact Laws.Layout.ldImm x kk
  | addImm x kk => exact Laws.Layout.addImm x kk
  | ldReg x y => exact Laws.Layout.ldReg x y
  | orReg x y => exact Laws.Layout.orReg x y
  | andReg x y => exact Laws.Layout.andReg x y
  | xorReg x y => exact Laws.Layout.xorReg x y
  | addReg x y => exact Laws.Layout.addReg x y
  | subReg x y => exact Laws.Layout.subReg x y
  | shr x y => exact Laws.Layout.shr x y
  | subnReg x y => exact Laws.Layout.subnReg x y
  | shl x y => exact Laws.Layout.shl x y
  | sneReg x y => exact Laws.Layout.sneReg x y
  | ldI addr => exact Laws.Layout.ldI addr
  | jpV0 addr => exact Laws.Layout.jpV0 addr
  | rnd x kk => exact Laws.Layout.rnd x kk
  | drw x y n => exact Laws.Layout.drw x y n
  | skp x => exact Laws.Layout.skp x
  | sknp x => exact Laws.Layout.sknp x
  | ldVxDt x => exact Laws.Layout.ldVxDt x
  | ldVxK x => exact Laws.Layout.ldVxK x
  | ldDtVx x => exact Laws.Layout.ldDtVx x
  | ldStVx x => exact Laws.Layout.ldStVx x
  | ldIVx x => exact Laws.Layout.ldIVx x
  | ldFVx x => exact Laws.Layout.ldFVx x
  | ldBVx x => exact Laws.Layout.ldBVx x
  | ldMemVx x => exact Laws.Layout.ldMemVx x
  | ldVxMem x => exact Laws.Layout.ldVxMem x

/-- Settles O4: a decoded word is an encoded one, which a row covers; no row covers a rejected one. -/
theorem decoderAcceptsExactlyTheOpcodeTable : Obligations.DecoderAcceptsExactlyTheOpcodeTable := by
  intro w
  constructor
  · rintro ⟨i, hi⟩
    rw [← encodeGivesBackEveryDecodedWord w i hi]
    exact encodeWord_covered i
  · rintro ⟨r, hr, hcovers⟩
    exact (decodeWord_ok_or_unsupported w).resolve_right fun h => not_covers_of_unsupported h r hr hcovers

/-- Two rows whose values agree on the bits both masks keep are one row. -/
theorem opcodeTable_row_eq_of_common_bits : ∀ r ∈ opcodeTable, ∀ q ∈ opcodeTable,
    r.value &&& q.mask = q.value &&& r.mask → r = q := by decide

/-- Settles O5: a word that two rows cover shows that their values agree on the bits both masks keep. -/
theorem opcodeTableRowsDoNotOverlap : Obligations.OpcodeTableRowsDoNotOverlap := by
  intro w r hr q hq hrw hqw
  simp only [OpcodeRow.covers, decide_eq_true_eq] at hrw hqw
  apply opcodeTable_row_eq_of_common_bits r hr q hq
  rw [← hrw, ← hqw, BitVec.and_assoc, BitVec.and_assoc, BitVec.and_comm r.mask]

/-- Settles O1: each word is written out, and the decoder is run on it. -/
theorem decodeReadsWrittenOutWords : Obligations.DecodeReadsWrittenOutWords := by
  refine ⟨?_, ?_, ?_, ?_, ?_, ?_, ?_, ?_, ?_, ?_, ?_, ?_, ?_, ?_, ?_, ?_, ?_, ?_, ?_⟩ <;> rfl

end Sys2Proof

/-! PROOFS. Memory (20_memory.md R40 to R51): the meanings that access a block of bytes at `I`, what Fx33,
Fx55 and Fx65 leave, and the fetch that follows a store. -/

namespace Sys2Proof.Machine

/-! ## The four meanings with a block of memory, each as one state -/

theorem exec_ldBVx (x : RegIdx) (s : State) : exec (.ldBVx x) s =
    .next (if s.blockExists 3 then s.storeDigits (s.getV x) else s.raiseOutOfBounds) := by
  simp only [exec, execLdBVx]; split <;> rfl

theorem exec_ldMemVx (x : RegIdx) (s : State) : exec (.ldMemVx x) s =
    .next (if s.blockExists (x.val + 1) then s.storeRegs (x.val + 1) else s.raiseOutOfBounds) := by
  simp only [exec, execLdMemVx]; split <;> rfl

theorem exec_ldVxMem (x : RegIdx) (s : State) : exec (.ldVxMem x) s =
    .next (if s.blockExists (x.val + 1) then s.loadRegs (x.val + 1) else s.raiseOutOfBounds) := by
  simp only [exec, execLdVxMem]; split <;> rfl

theorem exec_drw (x y : RegIdx) (n : Fin 16) (s : State) : exec (.drw x y n) s =
    .next (if s.blockExists n.val then ((s.setFlag 0#8).plotRows x y n.val).markDirty
      else s.raiseOutOfBounds) := by
  simp only [exec, execDrw]; split <;> rfl

/-- A block with a byte beyond memory: some byte is asked for, and the last one is at 4096 or above. -/
theorem State.blockExists_eq_false_iff (s : State) (count : Nat) :
    s.blockExists count = false ↔ count ≠ 0 ∧ 4096 < s.i.toNat + count := by
  rw [← Bool.not_eq_true, s.blockExists_iff]
  have e : Config.memSize = 4096 := rfl
  omega

/-- The fault of a block that reaches beyond memory, with the lowest bad address written out. -/
theorem FaultTaken.raiseOutOfBounds (s : State) : FaultTaken s s.raiseOutOfBounds
    { kind := .memoryOutOfBounds, pc := s.pc - 2#16, info := BitVec.ofNat 16 (max s.i.toNat 4096) } :=
  FaultTaken.raise s .memoryOutOfBounds s.lowestBadAddr

/-- A meaning whose block has a byte beyond memory raises, whatever it would do. -/
theorem State.ite_blockExists_eq_raise {s : State} {count : Nat} (hcount : count ≠ 0)
    (h : 4096 < s.i.toNat + count) (t : State) :
    (if s.blockExists count then t else s.raiseOutOfBounds) = s.raiseOutOfBounds := by
  rw [(s.blockExists_eq_false_iff count).mpr ⟨hcount, h⟩, if_neg Bool.false_ne_true]

/-! ## Frames -/

/-- A state that differs in the memory only, at the addresses of `A`. -/
theorem OnlyMemory.of_update {A : Nat → Prop} {s t : State}
    (hmem : ∀ a, ¬ A a → t.readByte a = s.readByte a) (h : t = { s with mem := t.mem }) :
    OnlyMemory A s t where
  regs r := (congrArg (State.getV · r) h :)
  index := (congrArg State.i h :)
  counter := (congrArg State.pc h :)
  stack := ⟨(congrArg State.sp h :), fun k => (congrArg (State.stackEntry · k) h :)⟩
  timers := ⟨(congrArg State.dt h :), (congrArg State.st h :)⟩
  screen := ⟨fun py px => (congrArg (State.pixel · py px) h :), (congrArg State.dirty h :)⟩
  memory := hmem
  latches := ⟨(congrArg State.wait h :), (congrArg State.fault h :)⟩
  ports := ⟨(congrArg State.inputs h :), (congrArg State.ticks h :), (congrArg State.out h :)⟩

/-! ## Decimal digits -/

theorem hundreds_toNat (b : Byte) : (hundreds b).toNat = b.toNat / 100 := BitVec.toNat_udiv

theorem tens_toNat (b : Byte) : (tens b).toNat = b.toNat / 10 % 10 := by
  simp [tens, BitVec.toNat_umod, BitVec.toNat_udiv]

theorem ones_toNat (b : Byte) : (ones b).toNat = b.toNat % 10 := BitVec.toNat_umod

theorem State.wf_storeDigits {s : State} (hs : s.mem.wf = true) (b : Byte) :
    (s.storeDigits b).mem.wf = true :=
  State.wf_writeByte (State.wf_writeByte (State.wf_writeByte hs _ _) _ _) _ _

/-- What the three digits stored from `I` up leave in memory. -/
theorem State.readByte_storeDigits {s : State} (hs : s.mem.wf = true) (hi : s.i.toNat + 2 < 4096)
    (b : Byte) (q : Nat) : (s.storeDigits b).readByte q =
      if q = s.i.toNat then hundreds b else if q = s.i.toNat + 1 then tens b
      else if q = s.i.toNat + 2 then ones b else s.readByte q := by
  have hea : ∀ k, k ≤ 2 → s.ea k < Config.memSize := fun k hk => by
    have e : Config.memSize = 4096 := rfl
    unfold State.ea; omega
  have hs1 := State.wf_writeByte hs (s.ea 0) (hundreds b)
  have hs2 := State.wf_writeByte hs1 (s.ea 1) (tens b)
  rw [State.storeDigits, State.readByte_writeByte hs2 (hea 2 (by omega)),
    State.readByte_writeByte hs1 (hea 1 (by omega)), State.readByte_writeByte hs (hea 0 (by omega))]
  simp only [State.ea, Nat.add_zero]
  by_cases h0 : q = s.i.toNat
  · simp [h0]
  · by_cases h1 : q = s.i.toNat + 1
    · simp [h1]
    · simp [h0, h1]

/-! ## The number of each byte after a store -/

theorem State.readByte_storeRegs_toNat {s : State} (hs : s.mem.wf = true) (x : RegIdx)
    (hi : s.i.toNat + x.val < 4096) (a : Nat) :
    ((s.storeRegs (x.val + 1)).readByte a).toNat = s.byteAfterStoreRegs x a := by
  have e : Config.memSize = 4096 := rfl
  rw [State.readByte_storeRegs hs (by omega) (by omega), State.byteAfterStoreRegs]
  by_cases h : s.i.toNat ≤ a ∧ a ≤ s.i.toNat + x.val
  · rw [if_pos h, if_pos (by omega)]
  · rw [if_neg h, if_neg (by omega)]

theorem State.readByte_storeDigits_toNat {s : State} (hs : s.mem.wf = true) (x : RegIdx)
    (hi : s.i.toNat + 2 < 4096) (a : Nat) :
    ((s.storeDigits (s.getV x)).readByte a).toNat = s.byteAfterStoreDigits x a := by
  rw [State.readByte_storeDigits hs hi, State.byteAfterStoreDigits]
  split_ifs
  · exact hundreds_toNat _
  · exact tens_toNat _
  · exact ones_toNat _
  · rfl

/-- A fetch whose two bytes exist, as a number. -/
theorem State.fetch_toNat {s : State} (h : s.pc.toNat + 1 < 4096) : ∃ w, s.fetch = .ok w ∧
    w.toNat = (s.readByte s.pc.toNat).toNat * 256 + (s.readByte (s.pc.toNat + 1)).toNat :=
  ⟨_, s.fetch_cases.trans (if_pos h), wordOfBytes_toNat _ _⟩

end Sys2Proof.Machine

namespace Sys2Proof

open Sys2Proof.Machine

/-- Settles O30: the three laws of a write to an address that exists. -/
theorem memoryReadsBackWhatWasWritten : Obligations.MemoryReadsBackWhatWasWritten := by
  intro s a b hs ha
  refine ⟨?_, ?_, State.wf_writeByte hs a b⟩
  · rw [State.readByte_writeByte hs ha, if_pos rfl]
  · intro q hq
    rw [State.readByte_writeByte hs ha, if_neg hq]

/-- Settles O26: the block exists, so the three digits are stored. -/
theorem storeDecimalWritesThreeDigits : Obligations.StoreDecimalWritesThreeDigits := by
  intro x s hs hi
  have hblock : s.blockExists 3 = true := (s.blockExists_iff 3).mpr (.inr hi)
  have hread := State.readByte_storeDigits hs hi (s.getV x)
  refine ⟨s.storeDigits (s.getV x), ?next, ?hundreds, ?tens, ?ones, ?frame, State.wf_storeDigits hs _⟩
  case next => rw [exec_ldBVx, if_pos hblock]
  case hundreds => rw [hread]; simp [State.ea, hundreds_toNat]
  case tens => rw [hread]; simp [State.ea, tens_toNat]
  case ones => rw [hread]; simp [State.ea, ones_toNat]
  case frame =>
    refine OnlyMemory.of_update (fun a ha => ?_) (State.storeDigits_eq s _)
    simp only [State.ea, Nat.add_zero, not_or] at ha
    obtain ⟨h0, h1, h2⟩ := ha
    rw [hread, if_neg h0, if_neg h1, if_neg h2]

/-- Settles O27: the block exists, so the `x + 1` registers are stored. -/
theorem storeRegistersWritesTheBlock : Obligations.StoreRegistersWritesTheBlock := by
  intro x s hs hi
  have hblock : s.blockExists (x.val + 1) = true := (s.blockExists_iff _).mpr (.inr hi)
  have hread := State.readByte_storeRegs hs (c := x.val + 1) (by omega) hi
  refine ⟨s.storeRegs (x.val + 1), ?next, ?stored, ?frame, State.wf_storeRegs hs _⟩
  case next => rw [exec_ldMemVx, if_pos hblock]
  case stored =>
    intro k hk
    have hkx : k.val ≤ x.val := hk
    rw [hread, State.ea, if_pos (by omega), Nat.add_sub_cancel_left]
    exact congrArg s.getV ((State.fin_ofNat_eq k.val k k.isLt).mpr rfl).symm
  case frame =>
    refine OnlyMemory.of_update (fun a ha => ?_) (State.storeRegs_eq s _)
    have hout : ¬ (s.i.toNat ≤ a ∧ a < s.i.toNat + (x.val + 1)) := fun h =>
      ha ⟨⟨a - s.i.toNat, by omega⟩, by rw [Fin.le_def]; simp only; omega, by simp only [State.ea]; omega⟩
    rw [hread, if_neg hout]

/-- Settles O28: the block exists, so the `x + 1` registers are loaded. -/
theorem loadRegistersReadsTheBlock : Obligations.LoadRegistersReadsTheBlock := by
  intro x s hi
  have hblock : s.blockExists (x.val + 1) = true := (s.blockExists_iff _).mpr (.inr hi)
  have hget := s.getV_loadRegs (c := x.val + 1) (by omega)
  refine ⟨s.loadRegs (x.val + 1), ?next, ?loaded, s.loadRegs_pc _, ?frame⟩
  case next => rw [exec_ldVxMem, if_pos hblock]
  case loaded => intro k hk; rw [hget, if_pos (Nat.lt_succ_of_le hk)]
  case frame =>
    refine OnlyRegs.of_update (fun r hr => ?_) ?_
    · rw [hget, if_neg (mt Nat.le_of_lt_succ hr)]
    · rw [State.loadRegs_pc]; exact State.loadRegs_eq s _

/-- Settles O29: the block does not exist, and each meaning raises before it writes. -/
theorem blocksBeyondMemoryFaultWithNoEffect : Obligations.BlocksBeyondMemoryFaultWithNoEffect := by
  intro x y n s
  have hfault := FaultTaken.raiseOutOfBounds s
  refine ⟨fun h => ?ldBVx, fun h => ⟨?ldMemVx, ?ldVxMem⟩, fun hn h => ?drw⟩
  case ldBVx =>
    exact ⟨_, by rw [exec_ldBVx, State.ite_blockExists_eq_raise (by omega) (by omega)], hfault⟩
  case ldMemVx =>
    exact ⟨_, by rw [exec_ldMemVx, State.ite_blockExists_eq_raise (by omega) (by omega)], hfault⟩
  case ldVxMem =>
    exact ⟨_, by rw [exec_ldVxMem, State.ite_blockExists_eq_raise (by omega) (by omega)], hfault⟩
  case drw =>
    exact ⟨_, by rw [exec_drw, State.ite_blockExists_eq_raise (by omega) (by omega)], hfault⟩

/-- Settles O31: the stores keep `pc`, so the fetch reads two bytes of the memory they leave. -/
theorem storesAreSeenByTheNextFetch : Obligations.StoresAreSeenByTheNextFetch := by
  intro x s hs hpc
  constructor
  · intro hi
    have hblock : s.blockExists (x.val + 1) = true := (s.blockExists_iff _).mpr (.inr hi)
    obtain ⟨w, hfetch, hw⟩ := State.fetch_toNat (s := s.storeRegs (x.val + 1)) (by simpa using hpc)
    refine ⟨_, w, by rw [exec_ldMemVx, if_pos hblock], hfetch, ?_⟩
    rw [hw, State.storeRegs_pc, State.readByte_storeRegs_toNat hs x hi,
      State.readByte_storeRegs_toNat hs x hi]
  · intro hi
    have hblock : s.blockExists 3 = true := (s.blockExists_iff 3).mpr (.inr hi)
    obtain ⟨w, hfetch, hw⟩ := State.fetch_toNat (s := s.storeDigits (s.getV x)) (by simpa using hpc)
    refine ⟨_, w, by rw [exec_ldBVx, if_pos hblock], hfetch, ?_⟩
    rw [hw, State.storeDigits_pc, State.readByte_storeDigits_toNat hs x hi,
      State.readByte_storeDigits_toNat hs x hi]

end Sys2Proof

/-! PROOFS. Calls and returns (41_control_flow.md R81, R83): the slot a call fills, the slot a return takes,
and the faults at both ends of the stack. -/

namespace Sys2Proof.Machine

theorem exec_call (addr : Addr12) (s : State) : exec (.call addr) s =
    .next (if s.sp = 16 then s.raise .stackOverflow 0#16
      else (s.push s.pc).setPc (addrOperand addr)) := by
  simp only [exec, execCall]; split <;> rfl

theorem exec_ret (s : State) : exec .ret s =
    .next (if s.sp = 0 then s.raise .stackUnderflow 0#16 else (s.setPc s.stackTop).pop) := by
  simp only [exec, execRet]; split <;> rfl

/-- A call with a free slot. -/
theorem exec_call_of_lt {s : State} (h : s.sp.val < 16) (addr : Addr12) :
    exec (.call addr) s = .next ((s.push s.pc).setPc (addrOperand addr)) := by
  rw [exec_call, if_neg fun e => absurd (congrArg Fin.val e) (Nat.ne_of_lt h)]

/-- A return with a used slot. -/
theorem exec_ret_of_pos {s : State} (h : 0 < s.sp.val) :
    exec .ret s = .next (s.setPc s.stackTop).pop := by
  rw [exec_ret, if_neg (Fin.pos_iff_ne_zero.mp h)]

theorem OnlyStackAndPc.push_setPc (s : State) (w target : Word) :
    OnlyStackAndPc s ((s.push w).setPc target) := by
  constructor <;> simp [KeepsRegs, KeepsTimers, KeepsScreen, KeepsMemory, KeepsLatches, KeepsPorts]

theorem OnlyStackAndPc.setPc_pop (s : State) (target : Word) : OnlyStackAndPc s (s.setPc target).pop := by
  constructor <;> simp [KeepsRegs, KeepsTimers, KeepsScreen, KeepsMemory, KeepsLatches, KeepsPorts]

/-- The top of the stack, as the entry whose number is one less than `sp`. -/
theorem State.stackTop_eq_of_succ {s : State} {k : Fin 16} (h : k.val + 1 = s.sp.val) :
    s.stackTop = s.stackEntry k := by
  rw [s.stackTop_eq (by omega)]
  exact congrArg s.stackEntry (Fin.ext (by simp only; omega))

end Sys2Proof.Machine

namespace Sys2Proof

open Sys2Proof.Machine

/-- Settles O21: the call pushes the advanced `pc` and jumps. -/
theorem callPushesTheReturnAddress : Obligations.CallPushesTheReturnAddress := by
  intro addr s hsp
  exact ⟨_, exec_call_of_lt hsp addr, addrOperand_toNat addr, s.sp_push s.pc hsp,
    s.stackEntry_push s.pc hsp, OnlyStackAndPc.push_setPc s _ _⟩

/-- Settles O22: the return jumps to the top entry and pops it. -/
theorem returnPopsTheReturnAddress : Obligations.ReturnPopsTheReturnAddress := by
  intro s hsp
  exact ⟨_, exec_ret_of_pos hsp, fun _ hk => State.stackTop_eq_of_succ hk, Nat.sub_add_cancel hsp,
    fun _ => rfl, OnlyStackAndPc.setPc_pop s _⟩

/-- Settles O23: the return takes the entry the call filled, which still holds the call's advanced `pc`. -/
theorem returnResumesAfterTheCall : Obligations.ReturnResumesAfterTheCall := by
  intro addr s t u hsp hcall husp huentry
  rw [exec_call_of_lt hsp] at hcall
  cases hcall
  have husp' : u.sp.val = s.sp.val + 1 := (congrArg Fin.val husp).trans (s.sp_push s.pc hsp)
  have htop : u.stackTop = s.pc :=
    calc u.stackTop = u.stackEntry ⟨s.sp.val, hsp⟩ := State.stackTop_eq_of_succ husp'.symm
      _ = (s.push s.pc).stackEntry ⟨s.sp.val, hsp⟩ := huentry ⟨s.sp.val, hsp⟩ rfl
      _ = s.pc := (s.stackEntry_push s.pc hsp _).trans (if_pos rfl)
  refine ⟨_, exec_ret_of_pos (by omega), htop, Fin.ext ?_⟩
  calc u.sp.val - 1 = s.sp.val := by omega

/-- Settles O24: each meaning tests the stack pointer and raises before it writes. -/
theorem stackFaultsAtBothEnds : Obligations.StackFaultsAtBothEnds := by
  intro addr s
  constructor
  · intro hsp
    exact ⟨_, by rw [exec_call, if_pos (Fin.ext hsp)], FaultTaken.raise s _ _⟩
  · intro hsp
    exact ⟨_, by rw [exec_ret, if_pos (Fin.ext hsp)], FaultTaken.raise s _ _⟩

end Sys2Proof

/-! PROOFS. What a step can do (40_cycle.md R69 to R78): the ways it can go, each with the state it ends in,
so that the invariant, the outputs and the faults are read off by cases. -/

namespace Sys2Proof.Machine

/-! ## The execute phase from clear latches -/

/-- With both latches clear an instruction raises a fault, or is an Fx0A that suspends, or leaves both
latches clear. -/
theorem exec_outcome {i : Instr} {s u : State} (hfault : s.fault = none) (hwait : s.wait = none)
    (h : exec i s = .next u) :
    (∃ kind info, u = s.raise kind info) ∨
    (∃ x, i = .ldVxK x ∧ s.input.keyEvent = none ∧ u = s.suspend x) ∨
    (u.fault = none ∧ u.wait = none) := by
  obtain hraise | ⟨v, a, p, stk, sp, px, d, dv, sv, m, w, hu, -, -, -, -, -, -, hw | ⟨x, rfl⟩⟩ :=
    exec_cases h
  · exact .inl hraise
  · subst hu
    exact .inr (.inr ⟨hfault, hw.trans hwait⟩)
  · clear hu
    cases h
    cases hkey : s.input.keyEvent with
    | none => exact .inr (.inl ⟨x, rfl, rfl, by simp [State.awaitKey, hkey]⟩)
    | some k => exact .inr (.inr (by simp [State.awaitKey, hkey, hfault, hwait]))

/-! ## The ways a step can go -/

/-- Why a running cycle from state `s` takes a fault, with the fault's kind and info. -/
inductive FaultCause (s : State) : FaultKind → Word → Prop
  /-- A byte of the word at `pc` does not exist. -/
  | fetch {a : Nat} (hfetch : s.fetch = .error a) :
      FaultCause s .memoryOutOfBounds (BitVec.ofNat 16 a)
  /-- The word is no instruction. -/
  | decode {w : Word} {e : DecodeError} (hfetch : s.fetch = .ok w) (hdecode : decodeWord w = .error e) :
      FaultCause s .unsupportedOpcode w
  /-- The instruction raises. -/
  | execute {w : Word} {i : Instr} {kind : FaultKind} {info : Word} (hfetch : s.fetch = .ok w)
      (hdecode : decodeWord w = .ok i)
      (hexec : exec i s.clearOut.advance = .next (s.clearOut.advance.raise kind info)) :
      FaultCause s kind info

/-- The ways a step from `s` can go, each with the state it answers. -/
inductive StepOutcome (s : State) : State → Prop
  /-- A fault is latched: nothing happens. -/
  | halted (hfault : s.fault.isSome) : StepOutcome s s.clearOut.nextInput
  /-- The core waits and there is no key event: nothing happens. -/
  | stillWaiting {x : RegIdx} (hfault : s.fault = none) (hwait : s.wait = some x)
      (hkey : s.input.keyEvent = none) : StepOutcome s s.clearOut.nextInput
  /-- The core waits and a key event ends the wait. -/
  | resumed {x : RegIdx} {k : KeyIdx} (hfault : s.fault = none) (hwait : s.wait = some x)
      (hkey : s.input.keyEvent = some k) : StepOutcome s (s.clearOut.resume x k).finishCycle.nextInput
  /-- The fetch, the decoder or the instruction faults. -/
  | faulted {kind : FaultKind} {info : Word} (hfault : s.fault = none) (hwait : s.wait = none)
      (hcause : FaultCause s kind info) : StepOutcome s (s.clearOut.takeFault kind s.pc info).nextInput
  /-- An Fx0A finds no key event and suspends. -/
  | suspended {w : Word} {x : RegIdx} (hfault : s.fault = none) (hwait : s.wait = none)
      (hfetch : s.fetch = .ok w) (hdecode : decodeWord w = .ok (.ldVxK x))
      (hkey : s.input.keyEvent = none) : StepOutcome s (s.clearOut.advance.suspend x).nextInput
  /-- An instruction completes, and TICK and FLUSH follow. -/
  | completed {w : Word} {i : Instr} {u : State} (hfault : s.fault = none) (hwait : s.wait = none)
      (hfetch : s.fetch = .ok w) (hdecode : decodeWord w = .ok i)
      (hexec : exec i s.clearOut.advance = .next u) (hufault : u.fault = none) (huwait : u.wait = none) :
      StepOutcome s u.finishCycle.nextInput

/-- A waiting cycle without a key event, and with one (40_cycle.md R71). -/
theorem State.waitingCycle_of_none {s : State} (h : s.input.keyEvent = none) (x : RegIdx) :
    s.waitingCycle x = s := by simp [State.waitingCycle, h]

theorem State.waitingCycle_of_some {s : State} {k : KeyIdx} (h : s.input.keyEvent = some k) (x : RegIdx) :
    s.waitingCycle x = (s.resume x k).finishCycle := by simp [State.waitingCycle, h]

/-- Every step goes one of these ways. -/
theorem stepOutcome {s t : State} (h : step s = .next t) : StepOutcome s t := by
  obtain ⟨hfault, hs⟩ | ⟨x, hfault, hwait, hs⟩ | ⟨a, hfault, hwait, hfetch, hs⟩ |
    ⟨w, e, hfault, hwait, hfetch, hdecode, hs⟩ | ⟨w, i, u, hfault, hwait, hfetch, hdecode, hexec, hs⟩ :=
    step_cases s <;> rw [hs] at h <;> cases h
  · exact .halted hfault
  · cases hkey : s.input.keyEvent with
    | none => rw [State.waitingCycle_of_none (s := s.clearOut) hkey]; exact .stillWaiting hfault hwait hkey
    | some k => rw [State.waitingCycle_of_some (s := s.clearOut) hkey]; exact .resumed hfault hwait hkey
  · exact .faulted hfault hwait (.fetch hfetch)
  · rw [State.raise_advance]
    exact .faulted hfault hwait (.decode hfetch hdecode)
  · obtain ⟨kind, info, rfl⟩ | ⟨x, rfl, hkey, rfl⟩ | ⟨hufault, huwait⟩ :=
      exec_outcome (s := s.clearOut.advance) hfault hwait hexec
    · rw [State.afterExecute_of_fault rfl, State.raise_advance]
      exact .faulted hfault hwait (.execute hfetch hdecode hexec)
    · rw [State.afterExecute_of_wait rfl]
      exact .suspended hfault hwait hfetch hdecode hkey
    · rw [State.afterExecute_of_none hufault huwait]
      exact .completed hfault hwait hfetch hdecode hexec hufault huwait

end Sys2Proof.Machine

/-! PROOFS. The invariant of cycle boundaries (10_state.md R32): what an instruction keeps of it, and that
every step keeps it. -/

namespace Sys2Proof.Machine

/-! ## What the execute phase keeps -/

/-- Only Fx33 and Fx55 write memory, and both keep its canonical form. -/
theorem exec_keeps_memCanonical {i : Instr} {s t : State} (h : exec i s = .next t)
    (hs : s.mem.wf = true) : t.mem.wf = true := by
  obtain ⟨kind, info, rfl⟩ | ⟨v, a, p, stk, sp, px, d, dv, sv, m, w, ht, -, -, -, -, -, hm, -⟩ :=
    exec_cases h
  · exact hs
  · obtain rfl | ⟨x, rfl⟩ | ⟨x, rfl⟩ := hm
    · rw [ht]; exact hs
    · rw [exec_ldBVx] at h
      cases h
      split
      · exact State.wf_storeDigits hs _
      · exact hs
    · rw [exec_ldMemVx] at h
      cases h
      split
      · exact State.wf_storeRegs hs _
      · exact hs

/-- Only Annn, Fx1E and Fx29 write `I`, and each to at most 0xFFF (10_state.md R14). -/
theorem exec_keeps_iBound {i : Instr} {s t : State} (h : exec i s = .next t)
    (hs : s.i.toNat ≤ 0xFFF) : t.i.toNat ≤ 0xFFF := by
  obtain ⟨kind, info, rfl⟩ | ⟨v, a, p, stk, sp, px, d, dv, sv, m, w, ht, ha, -, -, -, -, -, -⟩ :=
    exec_cases h
  · exact hs
  · obtain rfl | ⟨addr, rfl⟩ | ⟨x, rfl⟩ | ⟨x, rfl⟩ := ha
    · rw [ht]; exact hs
    · cases h
      have := addrOperand_toNat addr
      rw [State.setI_i]; omega
    · cases h
      have := s.regAsWord_toNat x
      rw [State.setI_i]; omega
    · cases h
      have := s.glyphAddr_toNat x
      rw [State.setI_i]; omega

/-- Only 2nnn writes a stack entry, and it writes the advanced `pc` (10_state.md R16). -/
theorem exec_keeps_stackBound {i : Instr} {s t : State} (h : exec i s = .next t)
    (hpc : s.pc.toNat ≤ 0x1000) (hs : ∀ k, (s.stackEntry k).toNat ≤ 0x1000) :
    ∀ k, (t.stackEntry k).toNat ≤ 0x1000 := by
  obtain ⟨kind, info, rfl⟩ | ⟨v, a, p, stk, sp, px, d, dv, sv, m, w, ht, -, hstk, -, -, -, -, -⟩ :=
    exec_cases h
  · exact hs
  · obtain ⟨rfl, -⟩ | ⟨addr, rfl⟩ | rfl := hstk
    · rw [ht]; exact hs
    · rw [exec_call] at h
      cases h
      split
      · exact hs
      · intro k
        rw [State.setPc_stackEntry, State.stackEntry_push s s.pc (by omega)]
        split
        · exact hpc
        · exact hs k
    · rw [exec_ret] at h
      cases h
      split <;> exact hs

/-- The program-counter law keeps the bound on `pc` (10_state.md R16): the largest value is that of Bnnn. -/
theorem State.pcAfter_le {s : State} (hpc : s.pc.toNat + 1 < 4096)
    (hstack : ∀ k, (s.stackEntry k).toNat ≤ 0x1000) (i : Instr) : (s.pcAfter i).toNat ≤ 0x10FE := by
  have h2 : (s.pc + 2#16).toNat ≤ 0x10FE := by bv_omega
  have h4 : (s.pc + 4#16).toNat ≤ 0x10FE := by bv_omega
  cases i with
  | jp addr | call addr =>
    have h : (addr.setWidth 16 : Word).toNat = addr.toNat := addrOperand_toNat addr
    rw [State.pcAfter]; omega
  | jpV0 addr =>
    have h : (s.pcAfter (.jpV0 addr)).toNat = _ := s.indexedTarget_toNat addr
    omega
  | ret => exact Nat.le_trans (hstack _) (by decide)
  | seImm | sneImm | seReg | sneReg | skp | sknp =>
    rw [State.pcAfter]
    split
    · assumption
    · assumption
  | _ => exact h2

/-- A cycle in which nothing happens keeps the invariant. -/
theorem State.Inv.clearOut_nextInput {s : State} (h : s.Inv) : s.clearOut.nextInput.Inv where
  memCanonical := h.memCanonical
  iBound := h.iBound
  pcBound := h.pcBound
  stackBound := h.stackBound
  notDirty := h.notDirty
  dtSettled := h.dtSettled
  stSettled := h.stSettled
  oneLatch := h.oneLatch

end Sys2Proof.Machine

namespace Sys2Proof

open Sys2Proof.Machine

/-- Settles O52: by the ways a step can go. A cycle that ends early keeps what the invariant is about; one
that completes keeps each bound by its own lemma, and TICK and FLUSH settle the timers and clear `dirty`. -/
theorem stepKeepsTheInvariant : Obligations.StepKeepsTheInvariant := by
  intro s t hs hstep
  obtain ⟨hmem, hi, hpc, hstack, hdirty, hdt, hst, -⟩ := id hs
  cases stepOutcome hstep with
  | halted | stillWaiting => exact hs.clearOut_nextInput
  | resumed hfault hwait hkey =>
    constructor
    case dtSettled | stSettled => simp [Timer.settled_tick]
    case notDirty | oneLatch => simp
    all_goals simpa
  | faulted hfault hwait hcause => exact ⟨hmem, hi, hpc, hstack, hdirty, hdt, hst, .inl hwait⟩
  | suspended hfault hwait hfetch hdecode hkey =>
    have hpc2 : (s.pc + 2#16).toNat ≤ 0x10FE := by
      have := (State.of_fetch_ok hfetch).1
      have e : Config.memSize = 4096 := rfl
      bv_omega
    exact ⟨hmem, hi, hpc2, hstack, hdirty, hdt, hst, .inr hfault⟩
  | @completed w i u hfault hwait hfetch hdecode hexec hufault huwait =>
    have hfit : s.pc.toNat + 1 < 4096 := (State.of_fetch_ok hfetch).1
    constructor
    case memCanonical => simpa using exec_keeps_memCanonical hexec hmem
    case iBound => simpa using exec_keeps_iBound hexec hi
    case pcBound =>
      have hu := pc_of_exec_advance hexec hufault
      rw [State.pcAfter_clearOut] at hu
      simpa [hu] using State.pcAfter_le hfit hstack i
    case stackBound =>
      have hadv : (s.pc + 2#16).toNat ≤ 0x1000 := by bv_omega
      simpa using exec_keeps_stackBound hexec hadv hstack
    case notDirty => simp
    case dtSettled | stSettled => simp [Timer.settled_tick]
    case oneLatch => exact .inl (by simpa using huwait)

end Sys2Proof

/-! PROOFS. Who writes what (10_state.md R9 to R25): the writers of each part of the state, and of each
register. -/

namespace Sys2Proof.Machine

/-! ## Frames of whole loops -/

theorem KeepsStack.of_eq {s t : State} (hstack : t.stack = s.stack) (hsp : t.sp = s.sp) : KeepsStack s t :=
  ⟨hsp, fun k => by rw [State.stackEntry, hstack]; rfl⟩

theorem KeepsScreen.of_eq {s t : State} (hpixels : t.pixels = s.pixels) (hdirty : t.dirty = s.dirty) :
    KeepsScreen s t :=
  ⟨fun py px => by rw [State.pixel, hpixels]; rfl, hdirty⟩

theorem KeepsMemory.of_eq {s t : State} (hmem : t.mem = s.mem) : KeepsMemory s t :=
  fun a => by rw [State.readByte, hmem]; rfl

@[simp] theorem State.storeDigits_getV (s : State) (b : Byte) (r : RegIdx) :
    (s.storeDigits b).getV r = s.getV r := by
  rw [State.storeDigits_eq]; rfl

@[simp] theorem State.storeRegs_getV (s : State) (c : Nat) (r : RegIdx) :
    (s.storeRegs c).getV r = s.getV r := by
  rw [State.storeRegs_eq]; rfl

/-- An Fx0A, completed or suspended, writes its own register at most. -/
theorem State.getV_awaitKey_of_ne {s : State} {x r : RegIdx} (h : r ≠ x) :
    (s.awaitKey x).getV r = s.getV r := by
  unfold State.awaitKey
  split <;> simp [h]

/-- A whole Dxyn writes no register but `VF`. -/
theorem State.getV_draw_of_ne {r : RegIdx} (h : r ≠ vf) (s : State) (x y : RegIdx) (n : Nat) :
    ((s.setFlag 0#8).plotRows x y n).markDirty.getV r = s.getV r :=
  ((PlotFrame.setFlag s 0#8).trans (PlotFrame.plotRows _ x y n)).regs r h

end Sys2Proof.Machine

namespace Sys2Proof

open Sys2Proof.Machine

/-- Settles O59: `exec_cases` names the writers of every field, and a raise touches `pc`, the fault latch
and the outputs only. -/
theorem eachPartOfTheStateHasItsWriters : Obligations.EachPartOfTheStateHasItsWriters := by
  intro i s t h
  obtain ⟨kind, info, rfl⟩ | ⟨v, a, p, stk, sp, px, d, dv, sv, m, w, ht, ha, hstk, hdv, hsv, hpx, hm, hw⟩ :=
    exec_cases h
  · exact ⟨.inl rfl, .inl (.of_eq rfl rfl), .inl rfl, .inl rfl, rfl, rfl, .inl (.of_eq rfl rfl),
      .inl (.of_eq rfl), .inl rfl, rfl, rfl⟩
  · subst ht
    refine ⟨ha, hstk.imp_left ?stack, hdv.imp_left ?dt, hsv.imp_left ?st, rfl, rfl, hpx.imp ?kept ?drawn,
      hm.imp_left .of_eq, hw, rfl, rfl⟩
    case stack => exact fun ⟨hstack, hsp⟩ => .of_eq hstack hsp
    case dt => rintro rfl; rfl
    case st => rintro rfl; rfl
    case kept => exact fun ⟨hpixels, hdirty⟩ => .of_eq hpixels hdirty
    case drawn => exact And.right

/-- Settles O58: every register write of an instruction is to its destination, or to `VF` as a flag. -/
theorem otherRegistersAreNeverTouched : Obligations.OtherRegistersAreNeverTouched := by
  intro i r s t h hdest hflag
  cases i with
  | ldImm | addImm | ldReg | orReg | andReg | xorReg | rnd | ldVxDt =>
    have hr := of_decide_eq_false hdest
    cases h
    exact (s.getV_setV _ _ r).trans (if_neg hr)
  | addReg x y | subReg x y | shr x y | subnReg x y | shl x y =>
    have hr := of_decide_eq_false hdest
    have hvf : r ≠ vf := fun e => Bool.noConfusion (hflag e)
    cases h
    exact (State.getV_setV _ _ _ r).trans ((if_neg hr).trans ((s.getV_setFlag _ r).trans (if_neg hvf)))
  | ldVxK x =>
    cases h
    exact State.getV_awaitKey_of_ne (of_decide_eq_false hdest)
  | ldVxMem x =>
    have hr : ¬ r ≤ x := of_decide_eq_false hdest
    rw [exec_ldVxMem] at h
    cases h
    split
    · rw [s.getV_loadRegs (by omega), if_neg (mt Nat.le_of_lt_succ hr)]
    · rfl
  | drw x y n =>
    have hvf : r ≠ vf := fun e => Bool.noConfusion (hflag e)
    rw [exec_drw] at h
    cases h
    split
    · exact State.getV_draw_of_ne hvf s x y n.val
    · rfl
  | ldBVx | ldMemVx =>
    simp only [exec_ldBVx, exec_ldMemVx] at h
    cases h
    split
    · simp
    · rfl
  | call | ret =>
    simp only [exec_call, exec_ret] at h
    cases h
    split <;> simp
  | seImm | sneImm | seReg | sneReg | skp | sknp => cases h; exact s.skipIf_getV _ r
  | cls | jp | jpV0 | ldI | ldDtVx | ldStVx | ldIVx | ldFVx => cases h; rfl

end Sys2Proof

/-! PROOFS. Faults (60_exceptions.md R121 to R131): that a fault is precise, and which conditions raise
one. -/

namespace Sys2Proof.Machine

/-! ## When an instruction raises -/

@[simp] theorem State.storeDigits_fault (s : State) (b : Byte) : (s.storeDigits b).fault = s.fault := by
  rw [State.storeDigits_eq]

@[simp] theorem State.storeRegs_fault (s : State) (c : Nat) : (s.storeRegs c).fault = s.fault := by
  rw [State.storeRegs_eq]

@[simp] theorem State.loadRegs_fault (s : State) (c : Nat) : (s.loadRegs c).fault = s.fault := by
  rw [State.loadRegs_eq]

@[simp] theorem State.plotRows_fault (s : State) (x y : RegIdx) (n : Nat) :
    (s.plotRows x y n).fault = s.fault := by
  rw [(PlotFrame.plotRows s x y n).rest]

@[simp] theorem State.awaitKey_fault (s : State) (x : RegIdx) : (s.awaitKey x).fault = s.fault := by
  rw [State.awaitKey_eq]

/-- A raise as the value of a meaning that tests a condition for it: the condition holds, and the raise is
the one the meaning names. -/
theorem of_ite_raise_eq_raise {c : Prop} [Decidable c] {s a : State} {kind kind' : FaultKind}
    {info info' : Word} (ha : a.fault = none)
    (h : (if c then s.raise kind info else a) = s.raise kind' info') :
    c ∧ kind' = kind ∧ info' = info := by
  have hfault := congrArg State.fault h
  split at hfault
  · simp only [State.raise_fault, Option.some.injEq, FaultRecord.mk.injEq] at hfault
    obtain ⟨hkind, -, hinfo⟩ := hfault
    exact ⟨‹_›, hkind.symm, hinfo.symm⟩
  · simp [ha] at hfault

/-- The same for a meaning that raises unless its block of memory exists. -/
theorem of_ite_raiseOutOfBounds_eq_raise {count : Nat} {s a : State} {kind : FaultKind} {info : Word}
    (ha : a.fault = none)
    (h : (if s.blockExists count then a else s.raiseOutOfBounds) = s.raise kind info) :
    (count ≠ 0 ∧ 4096 < s.i.toNat + count) ∧ kind = .memoryOutOfBounds ∧ info = s.lowestBadAddr := by
  rw [← ite_not] at h
  obtain ⟨hblock, hkind, hinfo⟩ := of_ite_raise_eq_raise ha h
  exact ⟨(s.blockExists_eq_false_iff count).mp (Bool.eq_false_of_not_eq_true hblock), hkind, hinfo⟩

/-- With `I` at most 0xFFF the lowest bad address is 0x1000 (60_exceptions.md R127). -/
theorem State.lowestBadAddr_of_le {s : State} (h : s.i.toNat ≤ 0xFFF) : s.lowestBadAddr = 0x1000#16 := by
  have e : Config.memSize = 4096 := rfl
  rw [State.lowestBadAddr, Nat.max_eq_right (by omega)]
  rfl

/-- The instructions that raise, each with its condition, kind and info. -/
theorem exec_eq_raise {i : Instr} {s : State} {kind : FaultKind} {info : Word} (hfault : s.fault = none)
    (hi : s.i.toNat ≤ 0xFFF) (h : exec i s = .next (s.raise kind info)) :
    ((∃ addr, i = .call addr) ∧ s.sp.val = 16 ∧ kind = .stackOverflow ∧ info = 0#16) ∨
    (i = .ret ∧ s.sp.val = 0 ∧ kind = .stackUnderflow ∧ info = 0#16) ∨
    ((∃ x y n, i = .drw x y n ∧ 1 ≤ n.val ∧ 4096 ≤ s.i.toNat + n.val - 1) ∧
      kind = .memoryOutOfBounds ∧ info = 0x1000#16) ∨
    ((∃ x, i = .ldBVx x ∧ 4096 ≤ s.i.toNat + 2) ∧ kind = .memoryOutOfBounds ∧ info = 0x1000#16) ∨
    ((∃ x, (i = .ldMemVx x ∨ i = .ldVxMem x) ∧ 4096 ≤ s.i.toNat + x.val) ∧
      kind = .memoryOutOfBounds ∧ info = 0x1000#16) := by
  rw [← State.lowestBadAddr_of_le hi]
  cases i with
  | call addr =>
    rw [exec_call] at h
    obtain ⟨hsp, hkind, hinfo⟩ := of_ite_raise_eq_raise (by simpa) (Host.Outcome.next.inj h)
    exact .inl ⟨⟨addr, rfl⟩, congrArg Fin.val hsp, hkind, hinfo⟩
  | ret =>
    rw [exec_ret] at h
    obtain ⟨hsp, hkind, hinfo⟩ := of_ite_raise_eq_raise (by simpa) (Host.Outcome.next.inj h)
    exact .inr (.inl ⟨rfl, congrArg Fin.val hsp, hkind, hinfo⟩)
  | drw x y n =>
    rw [exec_drw] at h
    obtain ⟨⟨hn, hbad⟩, hkind⟩ := of_ite_raiseOutOfBounds_eq_raise (by simpa) (Host.Outcome.next.inj h)
    exact .inr (.inr (.inl ⟨⟨x, y, n, rfl, by omega, by omega⟩, hkind⟩))
  | ldBVx x =>
    rw [exec_ldBVx] at h
    obtain ⟨⟨-, hbad⟩, hkind⟩ := of_ite_raiseOutOfBounds_eq_raise (by simpa) (Host.Outcome.next.inj h)
    exact .inr (.inr (.inr (.inl ⟨⟨x, rfl, by omega⟩, hkind⟩)))
  | ldMemVx x =>
    rw [exec_ldMemVx] at h
    obtain ⟨⟨-, hbad⟩, hkind⟩ := of_ite_raiseOutOfBounds_eq_raise (by simpa) (Host.Outcome.next.inj h)
    exact .inr (.inr (.inr (.inr ⟨⟨x, .inl rfl, by omega⟩, hkind⟩)))
  | ldVxMem x =>
    rw [exec_ldVxMem] at h
    obtain ⟨⟨-, hbad⟩, hkind⟩ := of_ite_raiseOutOfBounds_eq_raise (by simpa) (Host.Outcome.next.inj h)
    exact .inr (.inr (.inr (.inr ⟨⟨x, .inr rfl, by omega⟩, hkind⟩)))
  | seImm | sneImm | seReg | sneReg | skp | sknp | ldVxK =>
    have hf := congrArg State.fault (Host.Outcome.next.inj h)
    simp [hfault] at hf
  | _ =>
    have hf : s.fault = some _ := congrArg State.fault (Host.Outcome.next.inj h)
    rw [hfault] at hf
    cases hf

/-! ## The fault a step takes -/

/-- A step that latches a fault has a cause for it, and takes it at the `pc` it started with. -/
theorem step_faulted {s t : State} {r : FaultRecord} (hfault : s.fault = none) (hstep : step s = .next t)
    (hr : t.fault = some r) : s.wait = none ∧ FaultCause s r.kind r.info ∧
      r.pc = s.pc ∧ t = (s.clearOut.takeFault r.kind s.pc r.info).nextInput := by
  cases stepOutcome hstep with
  | halted hhalt => simp [hfault] at hhalt
  | stillWaiting => simp [hfault] at hr
  | resumed => simp [hfault] at hr
  | suspended => simp [hfault] at hr
  | completed _ _ _ _ _ hufault => simp [hufault] at hr
  | faulted _ hwait hcause =>
    cases Option.some.inj hr
    exact ⟨hwait, hcause, rfl, rfl⟩

end Sys2Proof.Machine

namespace Sys2Proof

open Sys2Proof.Machine

/-- Settles O49: the state a faulting step answers is the entry taken on the state at the start of the
cycle. -/
theorem faultsArePrecise : Obligations.FaultsArePrecise := by
  intro s t r hfault hstep hr
  obtain ⟨-, -, hpc, rfl⟩ := step_faulted hfault hstep hr
  obtain ⟨kind, pc, info⟩ := r
  obtain rfl : pc = s.pc := hpc
  exact ⟨rfl, rfl, fun _ => rfl, rfl, rfl, ⟨rfl, fun _ => rfl⟩, ⟨rfl, rfl⟩, ⟨fun _ _ => rfl, rfl⟩,
    fun _ => rfl, rfl⟩

/-- Settles O50: a fault has a cause, and each cause is a condition of the list. -/
theorem onlyTheListedConditionsFault : Obligations.OnlyTheListedConditionsFault := by
  intro s t r hs hfault hstep hr
  obtain ⟨hwait, hcause, -, -⟩ := step_faulted hfault hstep hr
  obtain ⟨kind, pc, info⟩ := r
  refine ⟨hwait, ?_⟩
  cases hcause with
  | fetch hfetch =>
    obtain ⟨hpc, hinfo⟩ := State.of_fetch_error hfetch
    exact .inl ⟨rfl, hpc, hinfo⟩
  | decode hfetch hdecode =>
    have hno : ∀ i, decodeWord info ≠ .ok i := fun i hi => nomatch hdecode.symm.trans hi
    exact .inr (.inl ⟨_, hfetch, hno, rfl, rfl⟩)
  | execute hfetch hdecode hexec =>
    exact .inr (.inr ⟨_, _, hfetch, hdecode, exec_eq_raise (s := s.clearOut.advance) hfault hs.iBound hexec⟩)

end Sys2Proof

/-! PROOFS. The outputs of a cycle (60_exceptions.md R139, R142): which cycles beep, and which notify the
renderer. -/

namespace Sys2Proof.Machine

/-- The execute phase sets neither the beep nor the notification. -/
theorem exec_keeps_pulses {i : Instr} {s t : State} (h : exec i s = .next t) :
    t.out.beep = s.out.beep ∧ t.out.frameNotify = s.out.frameNotify := by
  obtain ⟨kind, info, rfl⟩ | ⟨v, a, p, stk, sp, px, d, dv, sv, m, w, rfl, -⟩ := exec_cases h
  · exact ⟨rfl, rfl⟩
  · exact ⟨rfl, rfl⟩

/-- An output that is not given, under a condition that does not hold. -/
theorem eq_true_iff_of_eq_false {b : Bool} {P : Prop} (hb : b = false) (hP : ¬ P) : b = true ↔ P :=
  iff_of_false (Bool.eq_false_iff.mp hb) hP

/-- A settled timer fires in no tick. -/
theorem Timer.settled.tickFires_eq_false {t : Timer} (h : t.settled) : t.tickFires = false := by
  rw [← Bool.not_eq_true, Timer.tickFires_iff]
  rintro ⟨hactive, hvalue⟩
  rw [h] at hactive
  exact hvalue (by simpa using hactive)

/-- The cause of a fault in a cycle that fetches and decodes is that its instruction raises. -/
theorem FaultCause.exec_eq {s : State} {kind : FaultKind} {info : Word} {w : Word} {i : Instr}
    (h : FaultCause s kind info) (hfetch : s.fetch = .ok w) (hdecode : decodeWord w = .ok i) :
    exec i s.clearOut.advance = .next (s.clearOut.advance.raise kind info) := by
  cases h with
  | fetch hfetch' => exact nomatch hfetch.symm.trans hfetch'
  | decode hfetch' hdecode' =>
    cases hfetch.symm.trans hfetch'
    exact nomatch hdecode.symm.trans hdecode'
  | execute hfetch' hdecode' hexec =>
    cases hfetch.symm.trans hfetch'
    cases hdecode.symm.trans hdecode'
    exact hexec

/-- A sound timer that fires after an instruction run from a settled one: the instruction was Fx18 with a
value above 0, and the timer was idle. -/
theorem st_tickFires_after_exec_iff {i : Instr} {s u : State} (hst : s.st.settled)
    (h : exec i s = .next u) :
    u.st.tickFires = true ↔ s.st.value = 0#8 ∧ ∃ x, i = .ldStVx x ∧ s.getV x ≠ 0#8 := by
  constructor
  · intro hfires
    obtain ⟨-, -, -, hkept | ⟨x, rfl⟩, -⟩ := eachPartOfTheStateHasItsWriters i s u h
    · rw [hkept, hst.tickFires_eq_false] at hfires
      cases hfires
    · cases h
      obtain ⟨hactive, hvalue⟩ := (Timer.tickFires_iff _).mp hfires
      rw [State.setStValue_st, hst] at hactive
      exact ⟨by simpa using hactive, x, rfl, hvalue⟩
  · rintro ⟨hidle, x, rfl, hx⟩
    cases h
    refine (Timer.tickFires_iff _).mpr ⟨?_, hx⟩
    rw [State.setStValue_st, hst, hidle]
    rfl

/-- A screen that an instruction leaves `dirty` without a fault: the instruction was 00E0 or Dxyn. -/
theorem dirty_after_exec_iff {i : Instr} {s u : State} (hdirty : s.dirty = false)
    (h : exec i s = .next u) (hu : u.fault = none) :
    u.dirty = true ↔ i = .cls ∨ ∃ x y n, i = .drw x y n := by
  constructor
  · intro hset
    obtain ⟨-, -, -, -, -, -, ⟨-, hkept⟩ | hdrawn, -⟩ := eachPartOfTheStateHasItsWriters i s u h
    · rw [hkept, hdirty] at hset
      cases hset
    · exact hdrawn
  · rintro (rfl | ⟨x, y, n, rfl⟩)
    · cases h; rfl
    · rw [eq_of_next_or_raiseOutOfBounds h hu]
      rfl

end Sys2Proof.Machine

namespace Sys2Proof

open Sys2Proof.Machine

/-- Settles O53: a cycle that does not complete an instruction does not beep, for a settled timer does not
fire and Fx18 neither faults nor suspends; one that does beeps when its instruction made the timer fire. -/
theorem beepExactlyWhenTheIdleSoundTimerIsSet : Obligations.BeepExactlyWhenTheIdleSoundTimerIsSet := by
  intro s t hs hstep
  cases stepOutcome hstep with
  | halted hhalt => exact eq_true_iff_of_eq_false rfl fun ⟨hfault, _⟩ => by simp [hfault] at hhalt
  | stillWaiting _ hwait =>
    exact eq_true_iff_of_eq_false rfl fun ⟨_, hnone, _⟩ => nomatch hwait.symm.trans hnone
  | @resumed x k _ hwait =>
    have hbeep : (s.clearOut.resume x k).finishCycle.nextInput.out.beep = false := by
      simp [State.finishCycle_out, HostOutput.quiet, hs.stSettled.tickFires_eq_false]
    exact eq_true_iff_of_eq_false hbeep fun ⟨_, hnone, _⟩ => nomatch hwait.symm.trans hnone
  | faulted hfault _ hcause =>
    refine eq_true_iff_of_eq_false rfl fun ⟨_, _, _, w, x, hfetch, hdecode, _⟩ => ?_
    have hraise := congrArg State.fault (Host.Outcome.next.inj (hcause.exec_eq hfetch hdecode))
    simp [hfault] at hraise
  | suspended _ _ hfetch hdecode =>
    refine eq_true_iff_of_eq_false rfl fun ⟨_, _, _, w, x, hfetch', hdecode', _⟩ => ?_
    cases hfetch.symm.trans hfetch'
    exact nomatch hdecode.symm.trans hdecode'
  | @completed w i u hfault hwait hfetch hdecode hexec =>
    have hbeep : u.finishCycle.nextInput.out.beep = u.st.tickFires := by
      simp [State.finishCycle_out, (exec_keeps_pulses hexec).1, HostOutput.quiet]
    rw [hbeep, st_tickFires_after_exec_iff (s := s.clearOut.advance) hs.stSettled hexec]
    constructor
    · rintro ⟨hidle, x, rfl, hx⟩
      exact ⟨hfault, hwait, hidle, w, x, hfetch, hdecode, hx⟩
    · rintro ⟨-, -, hidle, w', x, hfetch', hdecode', hx⟩
      cases hfetch.symm.trans hfetch'
      cases hdecode.symm.trans hdecode'
      exact ⟨hidle, x, rfl, hx⟩

/-- Settles O54: a cycle that does not complete an instruction does not notify, for `dirty` is false at its
start; one that does notifies when its instruction set `dirty`. -/
theorem frameNotifyExactlyAfterADraw : Obligations.FrameNotifyExactlyAfterADraw := by
  intro s t hs hstep
  cases stepOutcome hstep with
  | halted hhalt => exact eq_true_iff_of_eq_false rfl fun ⟨hfault, _⟩ => by simp [hfault] at hhalt
  | stillWaiting _ hwait =>
    exact eq_true_iff_of_eq_false rfl fun ⟨_, hnone, _⟩ => nomatch hwait.symm.trans hnone
  | @resumed x k _ hwait =>
    have hnotify : (s.clearOut.resume x k).finishCycle.nextInput.out.frameNotify = false := by
      simp [State.finishCycle_out, HostOutput.quiet, hs.notDirty]
    exact eq_true_iff_of_eq_false hnotify fun ⟨_, hnone, _⟩ => nomatch hwait.symm.trans hnone
  | faulted hfault _ hcause =>
    refine eq_true_iff_of_eq_false rfl fun ⟨_, _, w, i, hfetch, hdecode, hdrawn⟩ => ?_
    obtain rfl | ⟨-, hnofault⟩ := hdrawn
    · have hraise := congrArg State.fault (Host.Outcome.next.inj (hcause.exec_eq hfetch hdecode))
      simp [hfault] at hraise
    · cases hnofault
  | suspended _ _ hfetch hdecode =>
    refine eq_true_iff_of_eq_false ?_ fun ⟨_, _, w, i, hfetch', hdecode', hdrawn⟩ => ?_
    · rfl
    · cases hfetch.symm.trans hfetch'
      cases hdecode.symm.trans hdecode'
      simp at hdrawn
  | @completed w i u hfault hwait hfetch hdecode hexec hufault =>
    have hnotify : u.finishCycle.nextInput.out.frameNotify = u.dirty := by
      simp [State.finishCycle_out, (exec_keeps_pulses hexec).2, HostOutput.quiet]
    have hnofault : u.finishCycle.nextInput.fault = none := by simpa
    rw [hnotify, dirty_after_exec_iff (s := s.clearOut.advance) hs.notDirty hexec hufault]
    constructor
    · intro hdrawn
      exact ⟨hfault, hwait, w, i, hfetch, hdecode, hdrawn.imp_right fun h => ⟨h, hnofault⟩⟩
    · rintro ⟨-, -, w', i', hfetch', hdecode', hdrawn⟩
      cases hfetch.symm.trans hfetch'
      cases hdecode.symm.trans hdecode'
      exact hdrawn.imp_right And.left

end Sys2Proof

/-! PROOFS. The cycle (40_cycle.md R67 to R78): its phases written out, its faults before the execute phase,
and the halted and the waiting cycle, one and any number of them. -/

namespace Sys2Proof.Machine

/-! ## Cycles in which nothing happens -/

theorem SameCore.clearOut_nextInput (s : State) : SameCore s s.clearOut.nextInput where
  regs _ := rfl
  index := rfl
  counter := rfl
  stack := ⟨rfl, fun _ => rfl⟩
  timers := ⟨rfl, rfl⟩
  screen := ⟨fun _ _ => rfl, rfl⟩
  memory _ := rfl
  latches := ⟨rfl, rfl⟩

theorem step_stillWaiting {s : State} {x : RegIdx} (hfault : s.fault = none) (hwait : s.wait = some x)
    (hkey : s.input.keyEvent = none) : step s = .next s.clearOut.nextInput := by
  rw [step_waiting hfault hwait, State.waitingCycle_of_none (s := s.clearOut) hkey]

theorem step_resumed {s : State} {x : RegIdx} {k : KeyIdx} (hfault : s.fault = none)
    (hwait : s.wait = some x) (hkey : s.input.keyEvent = some k) :
    step s = .next (s.clearOut.resume x k).finishCycle.nextInput := by
  rw [step_waiting hfault hwait, State.waitingCycle_of_some (s := s.clearOut) hkey]

/-- A key number as the byte that Fx0A writes. -/
theorem keyByte_toNat (k : KeyIdx) : (BitVec.ofNat 8 k.val).toNat = k.val := by
  rw [BitVec.toNat_ofNat]; omega

theorem State.getV_resume_toNat (s : State) (x : RegIdx) (k : KeyIdx) :
    ((s.resume x k).getV x).toNat = k.val := by
  rw [State.getV_resume, if_pos rfl, keyByte_toNat]

/-- The inputs of a cycle are the first the host lists. -/
theorem State.input_of_cons {s : State} {a : HostInput} {rest : List HostInput}
    (h : s.inputs = a :: rest) : s.input = a := by
  rw [State.input, h]

end Sys2Proof.Machine

namespace Sys2Proof

open Sys2Proof.Machine

/-- Settles O42: the fetch reads the two bytes and the decoder finds the instruction in them, so the step is
its execute phase and what follows. -/
theorem stepRunsTheInstructionAtThePc : Obligations.StepRunsTheInstructionAtThePc := by
  intro s u i hfault hwait hpc hdecode hexec
  have hword : decodeWord (wordOfBytes (s.readByte s.pc.toNat) (s.readByte (s.pc.toNat + 1))) = .ok i := by
    rw [decode] at hdecode
    split at hdecode <;> cases hdecode
    assumption
  rw [step_execute hfault hwait (s.fetch_cases.trans (if_pos hpc)) hword hexec]
  congr 2
  cases hf : u.fault <;> cases hw : u.wait <;> simp [State.afterExecute, State.finishCycle, hf, hw]

/-- Settles O43: a placed word is fetched, from a core that is neither halted nor waiting. -/
theorem placedWordIsRunByTheNextStep : Obligations.PlacedWordIsRunByTheNextStep := by
  intro s u i w hs hdecode hexec
  have hword : decodeWord (tableWord 16 w) = .ok i := by
    rw [decodeTableWord, decode_bytes] at hdecode
    cases h : decodeWord (tableWord 16 w) <;> simp_all
  exact step_execute rfl rfl (State.fetch_placeWord hs _) hword hexec

/-- Settles O44: each of the ways a step can go answers a next state. -/
theorem everyCycleAnswersANextState : Obligations.EveryCycleAnswersANextState := by
  intro s
  obtain ⟨_, h⟩ | ⟨_, _, _, h⟩ | ⟨_, _, _, _, h⟩ | ⟨_, _, _, _, _, _, h⟩ | ⟨_, _, _, _, _, _, _, _, h⟩ :=
    step_cases s <;> exact ⟨_, h⟩

/-- Settles O45: the fetch names the lower address that does not exist, and the cycle takes the fault. -/
theorem fetchBeyondMemoryFaults : Obligations.FetchBeyondMemoryFaults := by
  intro s hfault hwait hpc
  cases hfetch : s.fetch with
  | ok w =>
    have hfit := (State.of_fetch_ok hfetch).1
    have e : Config.memSize = 4096 := rfl
    omega
  | error a =>
    rw [← (State.of_fetch_error hfetch).2]
    exact ⟨_, step_fetch_fault hfault hwait hfetch, FaultTaken.takeFault s.clearOut _ _⟩

/-- Settles O46: the decoder rejects the word, and the cycle takes the fault at the word's address. -/
theorem unsupportedWordFaults : Obligations.UnsupportedWordFaults := by
  intro s w hfault hwait hfetch hno
  cases hdecode : decodeWord w with
  | ok i => exact absurd hdecode (hno i)
  | error e =>
    refine ⟨_, step_unsupported hfault hwait hfetch hdecode, ?_⟩
    rw [State.raise_advance]
    exact FaultTaken.takeFault s.clearOut _ _

/-- Settles O47: a halted cycle clears the outputs and uses up its inputs. -/
theorem haltedCycleChangesNothing : Obligations.HaltedCycleChangesNothing := by
  intro s hfault
  exact ⟨_, step_halted (Option.isSome_iff_ne_none.mpr hfault), SameCore.clearOut_nextInput s, rfl⟩

/-- Settles O48: a waiting cycle does nothing, or completes its Fx0A and runs TICK and FLUSH. -/
theorem waitingCycleResumesOnAKeyEvent : Obligations.WaitingCycleResumesOnAKeyEvent := by
  intro s x hfault hwait
  constructor
  · intro hkey
    exact ⟨_, step_stillWaiting hfault hwait hkey, SameCore.clearOut_nextInput s, rfl⟩
  · intro k hkey
    refine ⟨_, step_resumed hfault hwait hkey, ?_, ?_⟩
    · rw [State.nextInput_getV, State.finishCycle_getV, State.getV_resume_toNat]
    · exact ⟨by simp, by simpa, by simp, by simp, by simp, by simp, fun r hr => by simp [hr],
        ⟨by simp, by simp⟩, fun a => by simp, by simp, by simp⟩

/-- Settles O56: by induction on the quiet inputs, each of which is used up by a cycle in which nothing
happens. -/
theorem waitLastsUntilTheFirstKeyEvent : Obligations.WaitLastsUntilTheFirstKeyEvent := by
  intro quiet e rest k x
  induction quiet with
  | nil =>
    intro s hfault hwait hinputs _ he
    have hkey : s.input.keyEvent = some k := by rw [State.input_of_cons hinputs, he]
    refine ⟨s, _, rfl, SameCore.refl s, step_resumed hfault hwait hkey, by simp, ?_, by simp,
      by simp, by simp⟩
    rw [State.nextInput_getV, State.finishCycle_getV, State.getV_resume_toNat]
  | cons a quiet ih =>
    intro s hfault hwait hinputs hquiet he
    have hkey : s.input.keyEvent = none := by
      rw [State.input_of_cons hinputs]; exact hquiet a List.mem_cons_self
    have htail : s.clearOut.nextInput.inputs = quiet ++ e :: rest := by
      rw [State.nextInput_inputs, State.clearOut_inputs, hinputs]; rfl
    obtain ⟨t, u, hsteps, hsame, hresume⟩ :=
      ih s.clearOut.nextInput hfault hwait htail (fun b hb => hquiet b (List.mem_cons_of_mem a hb)) he
    exact ⟨t, u, ⟨_, step_stillWaiting hfault hwait hkey, hsteps⟩,
      (SameCore.clearOut_nextInput s).trans hsame, hresume⟩

/-- Settles O57: by induction on the cycles, each of which is halted. -/
theorem faultStaysLatchedForEver : Obligations.FaultStaysLatchedForEver := by
  intro n
  induction n with
  | zero => exact fun s _ => ⟨s, rfl, SameCore.refl s⟩
  | succ n ih =>
    intro s hfault
    obtain ⟨t, hsteps, hsame⟩ := ih s.clearOut.nextInput hfault
    exact ⟨t, ⟨_, step_halted (Option.isSome_iff_ne_none.mpr hfault), hsteps⟩,
      (SameCore.clearOut_nextInput s).trans hsame⟩

end Sys2Proof


/-! PROOFS. The inputs of a cycle (40_cycle.md R68, 10_state.md R27): a step on other inputs goes the same
way, unless the rule that reads the input that differs runs. -/

namespace Sys2Proof.Machine

/-- The state with other coming inputs. -/
def State.withInputs (s : State) (l : List HostInput) : State := { s with inputs := l }

/-! ## Operations that read no input -/

theorem State.writeByte_withInputs (s : State) (l : List HostInput) (a : Nat) (b : Byte) :
    (s.withInputs l).writeByte a b = (s.writeByte a b).withInputs l := by
  unfold State.writeByte; split <;> rfl

theorem State.push_withInputs (s : State) (l : List HostInput) (w : Word) :
    (s.withInputs l).push w = (s.push w).withInputs l := by
  unfold State.push State.withInputs; split <;> rfl

theorem State.skipIf_withInputs (s : State) (l : List HostInput) (c : Bool) :
    (s.withInputs l).skipIf c = (s.skipIf c).withInputs l := by
  cases c <;> rfl

theorem State.storeRegs_withInputs (s : State) (l : List HostInput) (c : Nat) :
    (s.withInputs l).storeRegs c = (s.storeRegs c).withInputs l := by
  induction c with
  | zero => rfl
  | succ k ih => rw [State.storeRegs, ih, State.writeByte_withInputs]; rfl

theorem State.loadRegs_withInputs (s : State) (l : List HostInput) (c : Nat) :
    (s.withInputs l).loadRegs c = (s.loadRegs c).withInputs l := by
  induction c with
  | zero => rfl
  | succ k ih => rw [State.loadRegs, ih]; rfl

theorem State.storeDigits_withInputs (s : State) (l : List HostInput) (b : Byte) :
    (s.withInputs l).storeDigits b = (s.storeDigits b).withInputs l := by
  simp only [State.storeDigits, State.writeByte_withInputs]
  rfl

theorem State.plotBits_withInputs (s : State) (l : List HostInput) (x y : RegIdx) (row : Nat) (b : Byte)
    (c : Nat) : (s.withInputs l).plotBits x y row b c = (s.plotBits x y row b c).withInputs l := by
  induction c with
  | zero => rfl
  | succ bit ih => rw [State.plotBits, ih]; rfl

theorem State.plotRows_withInputs (s : State) (l : List HostInput) (x y : RegIdx) (n : Nat) :
    (s.withInputs l).plotRows x y n = (s.plotRows x y n).withInputs l := by
  induction n with
  | zero => rfl
  | succ row ih => rw [State.plotRows, ih, State.plotRow, State.plotBits_withInputs]; rfl

/-! ## Operations that read an input -/

theorem State.awaitKey_withInputs {s : State} {l : List HostInput}
    (h : (s.withInputs l).input.keyEvent = s.input.keyEvent) (x : RegIdx) :
    (s.withInputs l).awaitKey x = (s.awaitKey x).withInputs l := by
  unfold State.awaitKey
  rw [h]
  split <;> rfl

theorem State.keyDown_withInputs {s : State} {l : List HostInput}
    (h : (s.withInputs l).input.keys = s.input.keys) (k : KeyIdx) :
    (s.withInputs l).keyDown k = s.keyDown k := by
  rw [State.keyDown, h]; rfl

/-! ## The execute phase and what follows it -/

/-- An instruction does on other inputs what it does on these, when the input it reads is the same. -/
theorem exec_withInputs {i : Instr} {s t : State} {l : List HostInput}
    (hevent : (∀ x, i ≠ .ldVxK x) ∨ (s.withInputs l).input.keyEvent = s.input.keyEvent)
    (hkeys : (∀ x, i ≠ .skp x ∧ i ≠ .sknp x) ∨ (s.withInputs l).input.keys = s.input.keys)
    (hrand : (∀ x kk, i ≠ .rnd x kk) ∨ (s.withInputs l).input.rand = s.input.rand)
    (h : exec i s = .next t) : exec i (s.withInputs l) = .next (t.withInputs l) := by
  cases i with
  | ldVxK x =>
    have hsame := hevent.resolve_left fun hne => hne x rfl
    cases h
    exact congrArg Host.Outcome.next (State.awaitKey_withInputs hsame x)
  | skp x =>
    have hsame := hkeys.resolve_left fun hne => (hne x).1 rfl
    cases h
    refine congrArg Host.Outcome.next ?_
    rw [State.keyDown_withInputs hsame, State.skipIf_withInputs]
    rfl
  | sknp x =>
    have hsame := hkeys.resolve_left fun hne => (hne x).2 rfl
    cases h
    refine congrArg Host.Outcome.next ?_
    rw [State.keyDown_withInputs hsame, State.skipIf_withInputs]
    rfl
  | rnd x kk =>
    have hsame := hrand.resolve_left fun hne => hne x kk rfl
    cases h
    refine congrArg Host.Outcome.next ?_
    rw [hsame]
    rfl
  | seImm | sneImm | seReg | sneReg =>
    cases h
    exact congrArg Host.Outcome.next (State.skipIf_withInputs s l _)
  | call addr =>
    rw [exec_call] at h ⊢
    cases h
    rw [State.push_withInputs, apply_ite (State.withInputs · l)]
    rfl
  | ret =>
    rw [exec_ret] at h ⊢
    cases h
    rw [apply_ite (State.withInputs · l)]
    rfl
  | drw x y n =>
    rw [exec_drw] at h ⊢
    cases h
    rw [apply_ite (State.withInputs · l),
      show (s.withInputs l).setFlag 0#8 = (s.setFlag 0#8).withInputs l from rfl, State.plotRows_withInputs]
    rfl
  | ldBVx x =>
    rw [exec_ldBVx] at h ⊢
    cases h
    rw [State.storeDigits_withInputs, apply_ite (State.withInputs · l)]
    rfl
  | ldMemVx x =>
    rw [exec_ldMemVx] at h ⊢
    cases h
    rw [State.storeRegs_withInputs, apply_ite (State.withInputs · l)]
    rfl
  | ldVxMem x =>
    rw [exec_ldVxMem] at h ⊢
    cases h
    rw [State.loadRegs_withInputs, apply_ite (State.withInputs · l)]
    rfl
  | _ => cases h; rfl

theorem exec_keeps_inputs {i : Instr} {s t : State} (h : exec i s = .next t) : t.inputs = s.inputs := by
  obtain ⟨kind, info, rfl⟩ | ⟨v, a, p, stk, sp, px, d, dv, sv, m, w, rfl, -⟩ := exec_cases h
  · rfl
  · rfl

theorem State.finishCycle_withInputs (s : State) (l : List HostInput) :
    (s.withInputs l).finishCycle = s.finishCycle.withInputs l := by
  simp only [State.finishCycle, State.flushFrame]
  rw [apply_ite (State.withInputs · l)]
  rfl

theorem State.afterExecute_withInputs (s : State) (l : List HostInput) :
    (s.withInputs l).afterExecute = s.afterExecute.withInputs l := by
  unfold State.afterExecute
  rw [State.finishCycle_withInputs, apply_ite (State.withInputs · l), apply_ite (State.withInputs · l)]
  rfl

@[simp] theorem State.afterExecute_inputs (s : State) : s.afterExecute.inputs = s.inputs := by
  unfold State.afterExecute
  split
  · rfl
  · split <;> simp

/-- A waiting cycle reads the key event only. -/
theorem State.waitingCycle_withInputs {s : State} {l : List HostInput}
    (h : (s.withInputs l).input.keyEvent = s.input.keyEvent) (x : RegIdx) :
    (s.withInputs l).waitingCycle x = (s.waitingCycle x).withInputs l := by
  cases hkey : s.input.keyEvent with
  | none => rw [State.waitingCycle_of_none hkey, State.waitingCycle_of_none (h.trans hkey)]
  | some k =>
    rw [State.waitingCycle_of_some hkey, State.waitingCycle_of_some (h.trans hkey),
      ← State.finishCycle_withInputs]
    rfl

@[simp] theorem State.waitingCycle_inputs (s : State) (x : RegIdx) :
    (s.waitingCycle x).inputs = s.inputs := by
  unfold State.waitingCycle
  split <;> simp

/-- After a cycle only the inputs that follow those of the cycle are left. -/
theorem State.nextInput_withInputs {s : State} {l : List HostInput} (h : l.tail = s.inputs.tail) :
    (s.withInputs l).nextInput = s.nextInput := by
  rw [State.nextInput, State.nextInput, ← h]
  rfl

/-! ## The step -/

/-- A step on inputs that differ in the first record only, and there only in what no rule that runs
reads. -/
theorem step_withInputs {s : State} {l : List HostInput} (htail : l.tail = s.inputs.tail)
    (hevent : (s.withInputs l).input.keyEvent = s.input.keyEvent ∨ s.fault ≠ none ∨
      (s.wait = none ∧ ∀ w x, s.fetch = .ok w → decodeWord w ≠ .ok (.ldVxK x)))
    (hkeys : (s.withInputs l).input.keys = s.input.keys ∨ s.fault ≠ none ∨ s.wait ≠ none ∨
      ∀ w x, s.fetch = .ok w → decodeWord w ≠ .ok (.skp x) ∧ decodeWord w ≠ .ok (.sknp x))
    (hrand : (s.withInputs l).input.rand = s.input.rand ∨ s.fault ≠ none ∨ s.wait ≠ none ∨
      ∀ w x kk, s.fetch = .ok w → decodeWord w ≠ .ok (.rnd x kk)) :
    step (s.withInputs l) = step s := by
  obtain ⟨hfault, hs⟩ | ⟨x, hfault, hwait, hs⟩ | ⟨n, hfault, hwait, hfetch, hs⟩ |
    ⟨w, e, hfault, hwait, hfetch, hdecode, hs⟩ | ⟨w, i, u, hfault, hwait, hfetch, hdecode, hexec, hs⟩ :=
    step_cases s <;> rw [hs]
  · rw [step_halted (s := s.withInputs l) hfault]
    exact congrArg Host.Outcome.next (State.nextInput_withInputs (s := s.clearOut) htail)
  · have hsame : (s.withInputs l).input.keyEvent = s.input.keyEvent := by
      obtain h | h | ⟨h, -⟩ := hevent
      · exact h
      · exact absurd hfault h
      · exact nomatch hwait.symm.trans h
    have hcycle : (s.withInputs l).clearOut.waitingCycle x = (s.clearOut.waitingCycle x).withInputs l :=
      State.waitingCycle_withInputs (s := s.clearOut) hsame x
    rw [step_waiting (s := s.withInputs l) hfault hwait, hcycle, State.nextInput_withInputs (by simpa)]
  · rw [step_fetch_fault (s := s.withInputs l) hfault hwait hfetch]
    exact congrArg Host.Outcome.next (State.nextInput_withInputs
      (s := s.clearOut.takeFault .memoryOutOfBounds s.pc (BitVec.ofNat 16 n)) htail)
  · rw [step_unsupported (s := s.withInputs l) hfault hwait hfetch hdecode]
    exact congrArg Host.Outcome.next (State.nextInput_withInputs
      (s := s.clearOut.advance.raise .unsupportedOpcode w) htail)
  · have hu : exec i (s.withInputs l).clearOut.advance = .next (u.withInputs l) := by
      refine exec_withInputs (s := s.clearOut.advance) (.symm ?_) (.symm ?_) (.symm ?_) hexec
      · exact hevent.imp id fun h x hx => (h.resolve_left (absurd hfault)).2 w x hfetch (hx ▸ hdecode)
      · refine hkeys.imp id fun h x => ?_
        obtain ⟨hskp, hsknp⟩ := (h.resolve_left (absurd hfault)).resolve_left (absurd hwait) w x hfetch
        exact ⟨fun hx => hskp (hx ▸ hdecode), fun hx => hsknp (hx ▸ hdecode)⟩
      · exact hrand.imp id fun h x kk hx =>
          (h.resolve_left (absurd hfault)).resolve_left (absurd hwait) w x kk hfetch (hx ▸ hdecode)
    have hinputs : u.inputs = s.clearOut.advance.inputs := exec_keeps_inputs hexec
    rw [step_execute (s := s.withInputs l) hfault hwait hfetch hdecode hu, State.afterExecute_withInputs,
      State.nextInput_withInputs (by rw [State.afterExecute_inputs, hinputs]; exact htail)]

end Sys2Proof.Machine

namespace Sys2Proof

open Sys2Proof.Machine

/-- Settles O55: the two steps are of states that differ in the first input only. -/
theorem inputsAreReadOnlyByTheRulesThatNameThem : Obligations.InputsAreReadOnlyByTheRulesThatNameThem := by
  intro s a b rest hevent hkeys hrand
  exact (step_withInputs (s := s.withInputs (a :: rest)) (l := b :: rest) rfl (hevent.imp_left Eq.symm)
    (hkeys.imp_left Eq.symm) (hrand.imp_left Eq.symm)).symm

end Sys2Proof

/-! PROOFS. Reset (10_state.md R30, R31, 70_reset_and_hazards.md R147 to R149): the memory a legal image
leaves, and the state around it. -/

namespace Sys2Proof.Machine

/-! ## The memory after reset -/

/-- A legal image is placed whole. -/
theorem State.resetWith_mem {image : List Byte} (h : imageWellFormed image = true) :
    (State.resetWith image).mem = Memory.load [] 0x200 image :=
  congrArg (Memory.load [] 0x200) (List.take_of_length_le (of_decide_eq_true h))

theorem le_memSize_of_imageWellFormed {image : List Byte} (h : imageWellFormed image = true) :
    0x200 + image.length ≤ Config.memSize := by
  have hlen : image.length ≤ 4096 - 0x200 := of_decide_eq_true h
  have e : Config.memSize = 4096 := rfl
  omega

/-- What a byte reads as after reset: the image from 0x200 up, the reset contents elsewhere. -/
theorem State.readByte_resetWith {image : List Byte} (h : imageWellFormed image = true) (a : Nat) :
    (State.resetWith image).readByte a =
      if hin : 0x200 ≤ a ∧ a - 0x200 < image.length then image[a - 0x200] else unlistedByte a := by
  rw [State.readByte, State.resetWith_mem h]
  exact Memory.read_load rfl (le_memSize_of_imageWellFormed h) a

theorem State.readByte_resetWith_image {image : List Byte} (h : imageWellFormed image = true) {k : Nat}
    (hk : k < image.length) : (State.resetWith image).readByte (0x200 + k) = image[k] := by
  rw [State.readByte_resetWith h, dif_pos ⟨by omega, by omega⟩]
  simp only [Nat.add_sub_cancel_left]

theorem State.readByte_resetWith_of_not_image {image : List Byte} (h : imageWellFormed image = true)
    {a : Nat} (ha : a < 0x200 ∨ 0x200 + image.length ≤ a) :
    (State.resetWith image).readByte a = unlistedByte a := by
  rw [State.readByte_resetWith h, dif_neg (by omega)]

theorem unlistedByte_of_glyph {a : Nat} (h : a < 0x50) : unlistedByte a = glyphs.getD a 0#8 := if_pos h

theorem unlistedByte_of_not_glyph {a : Nat} (h : 0x50 ≤ a) : unlistedByte a = 0#8 :=
  if_neg (Nat.not_lt.mpr h)

theorem State.reset_getV (r : RegIdx) : State.reset.getV r = 0#8 := by
  simp [State.getV, State.reset]

theorem State.reset_stackEntry (k : Fin 16) : State.reset.stackEntry k = 0#16 := by
  simp [State.stackEntry, State.reset]

theorem State.reset_pixel (py : Fin 32) (px : Fin 64) : State.reset.pixel py px = false := by
  simp [State.pixel, State.reset]

/-! ## The invariant at reset -/

/-- The reset state with any canonical memory meets the invariant. -/
theorem State.inv_reset_of_wf {m : Memory} (h : m.wf = true) : State.Inv { State.reset with mem := m } where
  memCanonical := h
  iBound := (by decide : State.reset.i.toNat ≤ 0xFFF)
  pcBound := (by decide : State.reset.pc.toNat ≤ 0x10FE)
  stackBound k := by
    have hk : State.stackEntry { State.reset with mem := m } k = 0#16 := State.reset_stackEntry k
    rw [hk]; decide
  notDirty := rfl
  dtSettled := rfl
  stSettled := rfl
  oneLatch := .inl rfl

end Sys2Proof.Machine

namespace Sys2Proof

open Sys2Proof.Machine

/-- Settles O7: every field but the memory is that of `State.reset`, and a byte of memory is one of the
image, a glyph byte or zero. -/
theorem resetLeavesTheStatedState : Obligations.ResetLeavesTheStatedState := by
  intro image himage
  refine ⟨State.reset_getV, rfl, rfl, rfl, State.reset_stackEntry, rfl, rfl, State.reset_pixel, rfl, rfl,
    rfl, ?glyph, ?below, ?placed, ?above⟩
  case glyph =>
    intro a ha
    rw [State.readByte_resetWith_of_not_image himage (.inl (by omega)), unlistedByte_of_glyph ha]
  case below =>
    intro a hlo hhi
    rw [State.readByte_resetWith_of_not_image himage (.inl hhi), unlistedByte_of_not_glyph hlo]
  case placed =>
    intro k hk
    rw [State.readByte_resetWith_image himage hk, List.getD_eq_getElem _ _ hk]
  case above =>
    intro a hlo _
    rw [State.readByte_resetWith_of_not_image himage (.inr hlo), unlistedByte_of_not_glyph (by omega)]

/-- Settles O8: the memory is canonical after a load, and the other parts are those of `State.reset`. -/
theorem resetMeetsTheInvariant : Obligations.ResetMeetsTheInvariant := by
  constructor
  · exact State.inv_reset_of_wf (m := []) rfl
  · intro image himage
    have hwf : (State.resetWith image).mem.wf = true := by
      rw [State.resetWith_mem himage]
      exact Memory.wf_load rfl (le_memSize_of_imageWellFormed himage)
    exact State.inv_reset_of_wf hwf

/-- Settles O9: the host's reset takes only the inputs from the state it finds. -/
theorem resetForgetsTheOldState : Obligations.ResetForgetsTheOldState := by
  intro s u image
  exact ⟨rfl, rfl, rfl⟩

/-- Settles O10: `pc` is 0x200 after reset, where the first two bytes of the image are. -/
theorem firstFetchAfterResetReadsTheImage : Obligations.FirstFetchAfterResetReadsTheImage := by
  intro b0 b1 rest himage
  have hpc : (State.resetWith (b0 :: b1 :: rest)).pc.toNat = 0x200 := rfl
  obtain ⟨w, hfetch, hw⟩ := State.fetch_toNat (s := State.resetWith (b0 :: b1 :: rest)) (by omega)
  refine ⟨w, hfetch, ?_⟩
  have h0 := State.readByte_resetWith_image himage (k := 0) (by simp)
  have h1 := State.readByte_resetWith_image himage (k := 1) (by simp)
  rw [hw, hpc, h0, h1]
  rfl

end Sys2Proof

/-! PROOFS. Arithmetic, shift and random (42_load_alu.md R97 to R102): the flag write and then the register
write, in the order the operands are read. -/

namespace Sys2Proof.Machine

/-! ## Writing `VF` and then a register -/

/-- The flag, then a register: nothing but those two registers changes. -/
theorem OnlyRegs.setFlag_setV (s : State) (f : Byte) (x : RegIdx) (b : Byte) :
    OnlyRegs (fun r => r = x ∨ r = vf) s ((s.setFlag f).setV x b) := by
  refine OnlyRegs.of_update (fun r hr => ?_) rfl
  obtain ⟨hx, hvf⟩ := not_or.mp hr
  rw [State.getV_setV, if_neg hx, State.getV_setFlag, if_neg hvf]

/-- The flag survives a write to another register. -/
theorem State.getV_vf_setFlag_setV {x : RegIdx} (hx : x ≠ vf) (s : State) (f b : Byte) :
    ((s.setFlag f).setV x b).getV vf = f := by
  rw [State.getV_setV, if_neg hx.symm, State.getV_setFlag, if_pos rfl]

theorem State.getV_setFlag_of_ne {x : RegIdx} (hx : x ≠ vf) (s : State) (f : Byte) :
    (s.setFlag f).getV x = s.getV x := by
  rw [State.getV_setFlag, if_neg hx]

theorem State.getV_setFlag_vf (s : State) (f : Byte) : (s.setFlag f).getV vf = f := by
  rw [State.getV_setFlag, if_pos rfl]

/-! ## The values, as natural numbers -/

theorem toNat_sub_byte (a b : Byte) : (a - b).toNat = (a.toNat + 256 - b.toNat) % 256 := by
  rw [BitVec.toNat_sub]; omega

theorem shiftRight_one_toNat (a : Byte) : (a >>> 1).toNat = a.toNat / 2 := by
  rw [BitVec.toNat_ushiftRight, Nat.shiftRight_eq_div_pow]

theorem shiftLeft_one_toNat (a : Byte) : (a <<< 1).toNat = a.toNat * 2 % 256 := by
  rw [BitVec.toNat_shiftLeft, Nat.shiftLeft_eq]

theorem lowBitFlag_toNat (a : Byte) : (lowBitFlag a).toNat = a.toNat % 2 := by
  rw [lowBitFlag, BitVec.toNat_and]; exact Nat.and_one_is_mod _

theorem highBitFlag_toNat (a : Byte) : (highBitFlag a).toNat = a.toNat / 128 := by
  rw [highBitFlag, BitVec.toNat_ushiftRight, Nat.shiftRight_eq_div_pow]

theorem flagOf_decide (c : Prop) [Decidable c] : flagOf (decide c) = if c then 1#8 else 0#8 := by
  by_cases h : c <;> simp [flagOf, h]

/-! ## The subtraction that reads after the flag write (R98, R100) -/

/-- Each operand of the subtraction that is `VF` is the flag just written. -/
theorem State.getV_subInto_toNat (s : State) (f : Byte) (d a b : RegIdx) :
    (((s.setFlag f).subInto d a b).getV d).toNat =
      ((if a = vf then f else s.getV a).toNat + 256 - (if b = vf then f else s.getV b).toNat) % 256 := by
  rw [State.subInto, State.getV_setV_same, toNat_sub_byte, State.getV_setFlag, State.getV_setFlag]

theorem greaterFlag_self (a : Byte) : greaterFlag a a = 0#8 := by
  simp [greaterFlag, flagOf]

/-- A register taken from itself: the difference is 0, and so is the flag. -/
theorem State.getV_subInto_self (s : State) (x : RegIdx) :
    ((s.setFlag (greaterFlag (s.getV x) (s.getV x))).subInto x x x).getV vf = 0#8 ∧
    ((s.setFlag (greaterFlag (s.getV x) (s.getV x))).subInto x x x).getV x = 0#8 := by
  have hx : ∀ f, ((s.setFlag f).subInto x x x).getV x = 0#8 := fun f => by
    rw [State.subInto, State.getV_setV_same, BitVec.sub_self]
  refine ⟨?_, hx _⟩
  by_cases h : x = vf
  · subst h; exact hx _
  · rw [State.subInto, State.getV_vf_setFlag_setV h, greaterFlag_self]

end Sys2Proof.Machine

namespace Sys2Proof

open Sys2Proof.Machine

/-- Settles O12: the carry goes to `VF` and then the sum to `V[x]`, both of the old operands. -/
theorem addRegistersGivesSumAndCarry : Obligations.AddRegistersGivesSumAndCarry := by
  intro x y s
  refine ⟨_, rfl, ?sum, fun hx => ?carry, rfl, OnlyRegs.setFlag_setV s _ x _⟩
  case sum => rw [State.getV_setV_same, BitVec.toNat_add]
  case carry => rw [State.getV_vf_setFlag_setV hx, carryFlag, flagOf_decide]

/-- Settles O13: both meanings write the flag and then `subInto`, with the operands the one way and the
other. -/
theorem subtractionsGiveDifferenceAndStrictFlag : Obligations.SubtractionsGiveDifferenceAndStrictFlag := by
  intro x y s
  constructor
  · refine ⟨_, rfl, rfl, OnlyRegs.setFlag_setV s _ x _, _, flagOf_decide _,
      fun hx => State.getV_vf_setFlag_setV hx s _ _, fun hx hy => ?_, fun hx hy => ?_, ?_, ?_⟩
    · rw [State.getV_subInto_toNat, if_neg hx, if_neg hy]
    · rw [State.getV_subInto_toNat, if_neg hx, if_pos hy]; rfl
    · rintro rfl hy
      rw [State.getV_subInto_toNat, if_pos rfl, if_neg hy]; rfl
    · rintro rfl
      exact s.getV_subInto_self x
  · refine ⟨_, rfl, rfl, OnlyRegs.setFlag_setV s _ x _, _, flagOf_decide _,
      fun hx => State.getV_vf_setFlag_setV hx s _ _, fun hx hy => ?_, fun hx hy => ?_, ?_, ?_⟩
    · rw [State.getV_subInto_toNat, if_neg hy, if_neg hx]
    · rw [State.getV_subInto_toNat, if_pos hy, if_neg hx]; rfl
    · rintro rfl hy
      rw [State.getV_subInto_toNat, if_neg hy, if_pos rfl]; rfl
    · rintro rfl
      exact s.getV_subInto_self x

/-- Settles O14: the bit shifted out goes to `VF`, and then `V[x]`, read after it, is shifted. -/
theorem shiftsGiveHalfOrDoubleAndTheBitShiftedOut :
    Obligations.ShiftsGiveHalfOrDoubleAndTheBitShiftedOut := by
  intro x y s
  constructor
  · refine ⟨_, rfl, rfl, OnlyRegs.setFlag_setV s _ x _, fun hx => ⟨?half, ?out⟩, ?_⟩
    case half =>
      rw [State.shiftRight, State.getV_setV_same, State.getV_setFlag_of_ne hx, shiftRight_one_toNat]
    case out => rw [State.shiftRight, State.getV_vf_setFlag_setV hx, lowBitFlag_toNat]
    · rintro rfl
      apply BitVec.eq_of_toNat_eq
      rw [State.shiftRight, State.getV_setV_same, State.getV_setFlag_vf, shiftRight_one_toNat,
        lowBitFlag_toNat]
      simp only [BitVec.toNat_ofNat]
      omega
  · refine ⟨_, rfl, rfl, OnlyRegs.setFlag_setV s _ x _, fun hx => ⟨?double, ?out⟩, ?_⟩
    case double =>
      rw [State.shiftLeft, State.getV_setV_same, State.getV_setFlag_of_ne hx, shiftLeft_one_toNat]
    case out => rw [State.shiftLeft, State.getV_vf_setFlag_setV hx, highBitFlag_toNat]
    · rintro rfl
      rw [State.shiftLeft, State.getV_setV_same, State.getV_setFlag_vf, shiftLeft_one_toNat,
        highBitFlag_toNat]
      omega

/-- Settles O15: neither meaning names its `y`. -/
theorem shiftsIgnoreTheSecondRegister : Obligations.ShiftsIgnoreTheSecondRegister := by
  intro x y z s
  exact ⟨rfl, rfl⟩

/-- Settles O16: the meaning is one write, of `kk` and the random byte of the first listed input. -/
theorem randomByteIsMasked : Obligations.RandomByteIsMasked := by
  intro x kk s a rest hinputs
  rw [← State.input_of_cons hinputs]
  exact s.setV_next x (kk &&& s.input.rand)

/-- Settles O17: the byte written is masked by `kk`, whatever the input is. -/
theorem randomByteStaysWithinItsMask : Obligations.RandomByteStaysWithinItsMask := by
  intro x kk s
  obtain ⟨t, hnext, hval, hpc, hframe⟩ := s.setV_next x (kk &&& s.input.rand)
  have hmask : t.getV x &&& ~~~kk = 0#8 := by
    rw [hval, BitVec.and_comm kk, BitVec.and_assoc, BitVec.and_not_self]
    exact BitVec.and_zero
  exact ⟨t, hnext, hmask, hpc, hframe⟩

end Sys2Proof

/-! PROOFS. Timers and keys (45_timer_key.md, 60_exceptions.md R136 to R140): the tick, any number of ticks,
and the instructions that read a timer or a key. -/

namespace Sys2Proof.Machine

theorem OnlyTimers.setDtValue (s : State) (b : Byte) : OnlyTimers s (s.setDtValue b) := by
  constructor <;> simp [KeepsRegs, KeepsStack, KeepsScreen, KeepsMemory, KeepsLatches, KeepsPorts]

theorem OnlyTimers.setStValue (s : State) (b : Byte) : OnlyTimers s (s.setStValue b) := by
  constructor <;> simp [KeepsRegs, KeepsStack, KeepsScreen, KeepsMemory, KeepsLatches, KeepsPorts]

/-- A skip under a condition and a skip under its negation: exactly one moves `pc`. -/
theorem State.skipIf_skipIf_not_pc (s : State) (c : Bool) :
    ((s.skipIf c).pc = s.pc + 2#16 ∧ (s.skipIf (!c)).pc = s.pc) ∨
    ((s.skipIf c).pc = s.pc ∧ (s.skipIf (!c)).pc = s.pc + 2#16) := by
  cases c
  · exact .inr ⟨rfl, rfl⟩
  · exact .inl ⟨rfl, rfl⟩

/-! ## Ticks -/

/-- The tick of a timer whose value is above 0, active or not. -/
theorem Timer.tick_value_of_ne_zero {t : Timer} (h : t.value ≠ 0#8) : t.tick.value = t.value - 1#8 := by
  rw [Timer.tick_cases, if_neg h, timerDec, if_neg h]
  split <;> rfl

theorem Timer.tick_of_idle {t : Timer} (hactive : t.active = false) (hvalue : t.value = 0#8) :
    t.tick = t := by
  rw [Timer.tick_cases, hactive, if_neg Bool.false_ne_true, if_pos hvalue]

/-- The tick of an active timer at 0: what `TIMER_ZERO_DEC` says (60_exceptions.md R138). -/
theorem Timer.tick_of_active_zero {t : Timer} (hactive : t.active = true) (hvalue : t.value = 0#8) :
    t.tick = { value := timerZeroDecByte, active := decide (timerZeroDecByte ≠ 0#8) } := by
  rw [Timer.tick_cases, hactive, if_pos rfl, hvalue, timerDec, if_pos rfl]

theorem Timer.tickFires_of_active {t : Timer} (h : t.active = true) : t.tickFires = false := by
  rw [← Bool.not_eq_true, Timer.tickFires_iff, h]
  exact fun ⟨hno, _⟩ => nomatch hno

/-- A tick of a settled timer takes one off its value, down to 0. -/
theorem Timer.settled.tick_value_toNat {t : Timer} (h : t.settled) :
    t.tick.value.toNat = t.value.toNat - 1 := by
  by_cases hvalue : t.value = 0#8
  · rw [Timer.tick_of_idle (h.trans (by simp [hvalue])) hvalue, hvalue]; rfl
  · have hpos : t.value.toNat ≠ 0 := fun e => hvalue (BitVec.eq_of_toNat_eq e)
    rw [Timer.tick_value_of_ne_zero hvalue]
    bv_omega

end Sys2Proof.Machine

namespace Sys2Proof

open Sys2Proof.Machine

/-- Settles O20: in each pair the second skips on the negation of the first's condition. -/
theorem oppositeSkipsAreComplementary : Obligations.OppositeSkipsAreComplementary := by
  intro x kk s t u
  constructor
  · intro hse hsne
    cases hse
    cases hsne
    rw [show decide (s.getV x ≠ kk) = !decide (s.getV x = kk) from decide_not]
    exact s.skipIf_skipIf_not_pc _
  · intro hskp hsknp
    cases hskp
    cases hsknp
    exact s.skipIf_skipIf_not_pc _

/-- Settles O36: Fx07 is one register write, Fx15 and Fx18 one write of a timer's value. -/
theorem timerInstructionsMoveTheValue : Obligations.TimerInstructionsMoveTheValue := by
  intro x s
  exact ⟨s.setV_next x s.dt.value, ⟨_, rfl, rfl, rfl, OnlyTimers.setDtValue s _⟩,
    ⟨_, rfl, rfl, rfl, OnlyTimers.setStValue s _⟩⟩

/-- Settles O38: with a key event Fx0A is one register write, with none one write of the wait latch. -/
theorem keyWaitTakesTheKeyOrSuspends : Obligations.KeyWaitTakesTheKeyOrSuspends := by
  intro x s
  constructor
  · intro k hkey
    obtain ⟨t, hnext, hval, hpc, hframe⟩ := s.setV_next x (BitVec.ofNat 8 k.val)
    have hawait : s.awaitKey x = s.setV x (BitVec.ofNat 8 k.val) := by rw [State.awaitKey, hkey]
    refine ⟨t, ?_, by rw [hval, keyByte_toNat], hpc, hframe⟩
    rw [← hnext, ← hawait]
    rfl
  · intro hkey
    have hawait : s.awaitKey x = s.suspend x := by rw [State.awaitKey, hkey]
    refine ⟨_, congrArg Host.Outcome.next hawait, rfl, rfl, fun _ => rfl, rfl, rfl, ⟨rfl, fun _ => rfl⟩,
      ⟨rfl, rfl⟩, ⟨fun _ _ => rfl, rfl⟩, fun _ => rfl, rfl, rfl, rfl⟩

/-- Settles O39: the cases of `Timer.tick_cases` and `Timer.tickFires_iff`. -/
theorem tickFollowsTheThreeSteps : Obligations.TickFollowsTheThreeSteps := by
  intro t
  refine ⟨fun hactive hvalue => ⟨Timer.tick_value_of_ne_zero hvalue, Timer.tickFires_of_active hactive⟩,
    fun hactive hvalue => ⟨Timer.tick_value_of_ne_zero hvalue, (Timer.tickFires_iff t).mpr ⟨hactive, hvalue⟩⟩,
    fun hactive hvalue => ⟨Timer.tick_of_idle hactive hvalue, ?_⟩, Timer.settled_tick t⟩
  rw [← Bool.not_eq_true, Timer.tickFires_iff]
  exact fun ⟨_, hne⟩ => hne hvalue

/-- Settles O40: by the two values of the parameter, which is one for all timers. -/
theorem zeroedRunningTimerWrapsOrSaturates : Obligations.ZeroedRunningTimerWrapsOrSaturates := by
  cases hdec : Config.timerZeroDec with
  | wrap =>
    refine .inl fun t hactive hvalue => ⟨?_, Timer.tickFires_of_active hactive⟩
    rw [Timer.tick_of_active_zero hactive hvalue, timerZeroDecByte, hdec]
    rfl
  | saturate =>
    refine .inr fun t hactive hvalue => ⟨?_, Timer.tickFires_of_active hactive⟩
    rw [Timer.tick_of_active_zero hactive hvalue, timerZeroDecByte, hdec]
    rfl

/-- Settles O41: by induction on the ticks, each of which finds a settled timer and leaves one. -/
theorem settledTimerCountsDownToZero : Obligations.SettledTimerCountsDownToZero := by
  intro n
  induction n with
  | zero => exact fun t ht => ⟨rfl, ht, ht.tickFires_eq_false⟩
  | succ n ih =>
    intro t ht
    obtain ⟨hvalue, hrest⟩ := ih t.tick (Timer.settled_tick t)
    refine ⟨?_, hrest⟩
    rw [Function.iterate_succ_apply, hvalue, ht.tick_value_toNat]
    omega

end Sys2Proof

/-! PROOFS. The sprite plot (44_display.md R110 to R113): Dxyn as an XOR of the pixels it covers, as a plot
of single bits, and its undoing by a second Dxyn. -/

namespace Sys2Proof.Machine

/-! ## The execute phase of a Dxyn whose rows exist -/

theorem State.blockExists_of_rows {s : State} {n : Fin 16} (h : n.val = 0 ∨ s.i.toNat + n.val ≤ 4096) :
    s.blockExists n.val = true := (s.blockExists_iff n.val).mpr h

/-- The state a Dxyn leaves. -/
def State.draw (s : State) (x y : RegIdx) (n : Nat) : State := ((s.setFlag 0#8).plotRows x y n).markDirty

theorem exec_drw_of_rows {s : State} {n : Fin 16} (h : n.val = 0 ∨ s.i.toNat + n.val ≤ 4096)
    (x y : RegIdx) : exec (.drw x y n) s = .next (s.draw x y n.val) := by
  rw [exec_drw, if_pos (State.blockExists_of_rows h)]
  rfl

theorem PlotFrame.draw (s : State) (x y : RegIdx) (n : Nat) :
    PlotFrame s ((s.setFlag 0#8).plotRows x y n) :=
  (PlotFrame.setFlag s 0#8).trans (PlotFrame.plotRows _ x y n)

/-- What a sprite covers depends on its coordinates and its bytes only. -/
theorem PlotFrame.spriteCovers {s t : State} (h : PlotFrame s t) {x y : RegIdx} (hx : x ≠ vf)
    (hy : y ≠ vf) (n : Nat) (py : Fin 32) (px : Fin 64) :
    t.spriteCovers x y n py px = s.spriteCovers x y n py px := by
  simp only [State.spriteCovers, State.spriteBitAt_eq, h.spriteRow hy, h.spriteColumn hx, h.ea, h.readByte]

theorem State.spriteCovers_draw (s : State) {x y : RegIdx} (hx : x ≠ vf) (hy : y ≠ vf) (m n : Nat)
    (py : Fin 32) (px : Fin 64) :
    (s.draw x y m).spriteCovers x y n py px = s.spriteCovers x y n py px :=
  (PlotFrame.draw s x y m).spriteCovers hx hy n py px

theorem State.pixel_draw (s : State) {x y : RegIdx} (hx : x ≠ vf) (hy : y ≠ vf) {n : Nat} (hn : n ≤ 32)
    (py : Fin 32) (px : Fin 64) :
    (s.draw x y n).pixel py px = xor (s.pixel py px) (s.spriteCovers x y n py px) :=
  calc (s.draw x y n).pixel py px
      = xor ((s.setFlag 0#8).pixel py px) ((s.setFlag 0#8).spriteCovers x y n py px) :=
        State.pixel_plotRows (s.setFlag 0#8) hx hy py px hn
    _ = xor (s.pixel py px) (s.spriteCovers x y n py px) := by
        rw [(PlotFrame.setFlag s 0#8).spriteCovers hx hy]; rfl

theorem State.flag_draw (s : State) {x y : RegIdx} (hx : x ≠ vf) (hy : y ≠ vf) {n : Nat} (hn : n ≤ 32) :
    (s.draw x y n).getV vf = flagOf ((s.setFlag 0#8).spriteHits x y n) := by
  have h := State.flag_plotRows (s.setFlag 0#8) hx hy hn
  rw [State.getV_setFlag_vf, BitVec.zero_or] at h
  exact h

theorem flagOf_eq_one_iff (b : Bool) : flagOf b = 1#8 ↔ b = true := by
  cases b <;> simp [flagOf]

/-- The collision flag is 1 exactly when the sprite covers a lit pixel. -/
theorem State.flag_draw_eq_one_iff (s : State) {x y : RegIdx} (hx : x ≠ vf) (hy : y ≠ vf) {n : Nat}
    (hn : n ≤ 32) : (s.draw x y n).getV vf = 1#8 ↔
      ∃ py px, s.spriteCovers x y n py px = true ∧ s.pixel py px = true := by
  rw [State.flag_draw s hx hy hn, flagOf_eq_one_iff, State.spriteHits_iff]
  simp only [(PlotFrame.setFlag s 0#8).spriteCovers hx hy, State.setFlag_pixel]

/-! ## The plot bit by bit, on a flag and a grid -/

/-- A state and a flag with a grid that say the same of `VF` and the framebuffer. -/
structure PlotAgrees (t : State) (acc : Bool × (Fin 32 → Fin 64 → Bool)) : Prop where
  /-- `VF` is the flag. -/
  flag : t.getV vf = flagOf acc.1
  /-- The framebuffer is the grid. -/
  grid : ∀ py px, t.pixel py px = acc.2 py px

theorem flagOf_toNat (b : Bool) : (flagOf b).toNat = b.toNat := by cases b <;> rfl

/-- A coordinate register during the plot: the flag as it stands for `VF`, its old value otherwise. -/
theorem PlotFrame.coordinate_toNat {s t : State} (hframe : PlotFrame s t) {f : Bool}
    (hflag : t.getV vf = flagOf f) (r : RegIdx) :
    (t.getV r).toNat = if r = vf then f.toNat else (s.getV r).toNat := by
  by_cases h : r = vf
  · rw [h, hflag, flagOf_toNat, if_pos rfl]
  · rw [hframe.regs r h, if_neg h]

/-- One bit on the grid, in the terms of the plot on a state whose `VF` is the flag. -/
theorem PlotFrame.plotOnGrid_eq {s t : State} (hframe : PlotFrame s t)
    {acc : Bool × (Fin 32 → Fin 64 → Bool)} (hflag : t.getV vf = flagOf acc.1) (x y : RegIdx) (row : Nat)
    {bit : Nat} (hbit : bit < 8) :
    s.plotOnGrid x y acc (8 * row + bit) =
      (acc.1 || (spriteBit (s.readByte (s.ea row)) bit && acc.2 (t.spriteRow y row) (t.spriteColumn x bit)),
        fun qy qx => if qy = t.spriteRow y row ∧ qx = t.spriteColumn x bit
          then xor (acc.2 qy qx) (spriteBit (s.readByte (s.ea row)) bit) else acc.2 qy qx) := by
  have hrow : (8 * row + bit) / 8 = row := by omega
  have hcol : (8 * row + bit) % 8 = bit := by omega
  have hline : Fin.ofNat 32 ((if y = vf then acc.1.toNat else (s.getV y).toNat) + row) =
      t.spriteRow y row := by
    rw [← hframe.coordinate_toNat hflag y]; rfl
  have hcolumn : Fin.ofNat 64 ((if x = vf then acc.1.toNat else (s.getV x).toNat) + bit) =
      t.spriteColumn x bit := by
    rw [← hframe.coordinate_toNat hflag x]; rfl
  simp only [State.plotOnGrid, hrow, hcol, hline, hcolumn, spriteBit_eq, State.ea]

/-- One sprite bit on a state and on its flag and grid. -/
theorem PlotAgrees.plotBit {s t : State} {acc : Bool × (Fin 32 → Fin 64 → Bool)} (hframe : PlotFrame s t)
    (h : PlotAgrees t acc) (x y : RegIdx) (row : Nat) {bit : Nat} (hbit : bit < 8) :
    PlotAgrees (t.plotBit x y row (s.readByte (s.ea row)) bit) (s.plotOnGrid x y acc (8 * row + bit)) := by
  rw [hframe.plotOnGrid_eq h.flag x y row hbit, State.plotBit, State.xorPixel, h.grid]
  constructor
  · rw [State.setPixel_getV, State.getV_setFlag_vf, collisionFlag, h.flag, flagOf_or]
  · intro py px
    rw [State.pixel_setPixel, State.setFlag_pixel, h.grid]
    by_cases hhit : py = t.spriteRow y row ∧ px = t.spriteColumn x bit
    · simp only [hhit, and_self, if_true]
    · simp only [hhit, if_false]

theorem PlotAgrees.plotBits {s t : State} {x y : RegIdx} (hframe : PlotFrame s t)
    {acc : Bool × (Fin 32 → Fin 64 → Bool)} (row : Nat)
    (h : PlotAgrees t ((List.range (8 * row)).foldl (s.plotOnGrid x y) acc)) :
    ∀ {c : Nat}, c ≤ 8 → PlotAgrees (t.plotBits x y row (s.readByte (s.ea row)) c)
      ((List.range (8 * row + c)).foldl (s.plotOnGrid x y) acc)
  | 0, _ => h
  | c + 1, hc => by
    rw [← Nat.add_assoc, List.range_succ, List.foldl_append]
    exact (PlotAgrees.plotBits hframe row h (by omega)).plotBit (hframe.trans (.plotBits t x y row _ c))
      x y row (by omega)

theorem PlotAgrees.plotRows {s t : State} {x y : RegIdx} (hframe : PlotFrame s t)
    {acc : Bool × (Fin 32 → Fin 64 → Bool)} (h : PlotAgrees t acc) :
    ∀ n, PlotAgrees (t.plotRows x y n) ((List.range (8 * n)).foldl (s.plotOnGrid x y) acc)
  | 0 => h
  | n + 1 => by
    have hrows : PlotFrame s (t.plotRows x y n) := hframe.trans (.plotRows t x y n)
    rw [State.plotRows, State.plotRow, hrows.readByte, hrows.ea]
    exact PlotAgrees.plotBits hrows n (PlotAgrees.plotRows hframe h n) (Nat.le_refl 8)

end Sys2Proof.Machine

namespace Sys2Proof

open Sys2Proof.Machine

/-- Settles O33: the plot XORs what the sprite covers, and its flag is that of a covered lit pixel. -/
theorem drawXorsTheCoveredPixels : Obligations.DrawXorsTheCoveredPixels := by
  intro x y n s hx hy hrows
  have hn : n.val ≤ 32 := by omega
  refine ⟨_, exec_drw_of_rows hrows x y, State.pixel_draw s hx hy hn, State.flag_draw_eq_one_iff s hx hy hn,
    ?_, rfl, (PlotFrame.draw s x y n.val).onlyScreen⟩
  rw [State.flag_draw s hx hy hn]
  cases (s.setFlag 0#8).spriteHits x y n.val
  · exact .inl rfl
  · exact .inr rfl

/-- Settles O34: state and grid agree before the plot, and every bit keeps them agreeing. -/
theorem drawRefinesThePlotBitByBit : Obligations.DrawRefinesThePlotBitByBit := by
  intro x y n s hrows
  have hstart : PlotAgrees (s.setFlag 0#8) (false, fun py px => s.pixel py px) :=
    ⟨State.getV_setFlag_vf s 0#8, fun _ _ => rfl⟩
  obtain ⟨hflag, hgrid⟩ := hstart.plotRows (PlotFrame.setFlag s 0#8) (x := x) (y := y) n.val
  exact ⟨_, exec_drw_of_rows hrows x y, rfl, (PlotFrame.draw s x y n.val).onlyScreen, _, rfl, hflag, hgrid⟩

/-- Settles O35: the second sprite covers the same pixels as the first, so each pixel is XORed twice, and
a pixel it covers is lit on the second draw when it was dark on the first. -/
theorem drawingTwiceRestoresTheScreen : Obligations.DrawingTwiceRestoresTheScreen := by
  intro x y n s hx hy hrows
  have hn : n.val ≤ 32 := by omega
  have hindex : (s.draw x y n.val).i = s.i := (PlotFrame.draw s x y n.val).onlyScreen.index
  have hrows' : n.val = 0 ∨ (s.draw x y n.val).i.toNat + n.val ≤ 4096 := by rwa [hindex]
  refine ⟨_, _, exec_drw_of_rows hrows x y, exec_drw_of_rows hrows' x y, fun py px => ?restored,
    State.flag_draw_eq_one_iff s hx hy hn, ?second⟩
  case restored =>
    rw [State.pixel_draw _ hx hy hn, State.pixel_draw s hx hy hn, State.spriteCovers_draw s hx hy,
      Bool.xor_assoc, Bool.xor_self, Bool.xor_false]
  case second =>
    rw [State.flag_draw_eq_one_iff _ hx hy hn]
    refine exists_congr fun py => exists_congr fun px => ?_
    rw [State.spriteCovers_draw s hx hy, State.pixel_draw s hx hy hn]
    refine and_congr_right fun hcovers => ?_
    rw [hcovers, Bool.xor_true, Bool.not_eq_true']

end Sys2Proof
